-- ==== Sys2Proof/Word.lean ====
section
/-! DEFINITION. The word types of the block: widths of 00_scope.md rule R5 (`W_BYTE`, `W_VAL`, `W_ADDR` = 8, `W_TS` = 32, `OP_W` = 4). -/

namespace Sys2Proof

/-- A register byte, a PackedByte or a plain integer on an operand or result port (R5, R56): 8 bits, unsigned. -/
abbrev Byte := BitVec 8

/-- An address of the register store (R30): 8 bits. -/
abbrev Addr := BitVec 8

/-- A millisecond timestamp (R5 `W_TS`, D4): 32 bits, unsigned. -/
abbrev Time := BitVec 32

/-- A one-bit port or state element (R12, R57). -/
abbrev Bit := BitVec 1

/-- An operation-select code (R55, `OP_W`): 4 bits. -/
abbrev OpCode := BitVec 4

end Sys2Proof
end

