-- ==== Sys2Proof/Syntax.lean ====
section
/-! DEFINITION. Commands: the ports of 30_encoding.md rule R56, the eleven operations of rule R55, and the
text form of rule R62. -/

namespace Sys2Proof

/-- A command as the block sees it: one op code and the values on the four operand ports (R55, R56). The
operands are separate ports, not fields of a word (R58). -/
structure Command where
  op : OpCode
  a : Byte
  b : Byte
  c : Byte
  t : Time
  deriving DecidableEq, Repr

/-- The eleven operations with the operands their row of R55 lists; one constructor per row of
`spec/opcode_table.json`. Every value of an operand port is an operand, so every term is well formed. -/
inductive Instr where
  /-- DECODE, op 0x0, `a` = byte (R70) -/
  | decode (a : Byte)
  /-- ENCODE, op 0x1, `a` = integer (R72) -/
  | encode (a : Byte)
  /-- ADMIT, op 0x2, `t` = now_ms (R80) -/
  | admitAt (t : Time)
  /-- INC_HOUR, op 0x3, `a` = current hour (R90) -/
  | incHour (a : Byte)
  /-- INC_MINUTE, op 0x4, `a` = current minute, `b` = current hour (R91) -/
  | incMinute (a b : Byte)
  /-- NORMALIZE, op 0x5, `a` = hour (R100) -/
  | normalize (a : Byte)
  /-- APPLY_EXTERNAL_TIME, op 0x6, `a` = h, `b` = m, `c` = s (R105) -/
  | applyExternalTime (a b c : Byte)
  /-- ON_HOUR_BUTTON, op 0x7, no operands (R110) -/
  | onHourButton
  /-- ON_MINUTE_BUTTON, op 0x8, no operands (R112) -/
  | onMinuteButton
  /-- ON_EXTERNAL_SYNC, op 0x9, no operands (R114) -/
  | onExternalSync
  /-- TICK, op 0xA, no operands (R116) -/
  | tick
  deriving DecidableEq, Repr

/-- The mnemonic of R55. -/
def Instr.mnemonic : Instr → String
  | .decode _ => "DECODE"
  | .encode _ => "ENCODE"
  | .admitAt _ => "ADMIT"
  | .incHour _ => "INC_HOUR"
  | .incMinute _ _ => "INC_MINUTE"
  | .normalize _ => "NORMALIZE"
  | .applyExternalTime _ _ _ => "APPLY_EXTERNAL_TIME"
  | .onHourButton => "ON_HOUR_BUTTON"
  | .onMinuteButton => "ON_MINUTE_BUTTON"
  | .onExternalSync => "ON_EXTERNAL_SYNC"
  | .tick => "TICK"

/-- The operand values in the order R62 writes them. -/
def Instr.operands : Instr → List Nat
  | .decode a => [a.toNat]
  | .encode a => [a.toNat]
  | .admitAt t => [t.toNat]
  | .incHour a => [a.toNat]
  | .incMinute a b => [a.toNat, b.toNat]
  | .normalize a => [a.toNat]
  | .applyExternalTime a b c => [a.toNat, b.toNat, c.toNat]
  | .onHourButton => []
  | .onMinuteButton => []
  | .onExternalSync => []
  | .tick => []

/-- The text form of a command after its line is split: a name and its operand numerals (R62). -/
structure TextCommand where
  name : String
  operands : List Nat
  deriving DecidableEq, Repr

/-- The text form the spec writes for an operation (R62). -/
def Instr.text (i : Instr) : TextCommand := { name := i.mnemonic, operands := i.operands }

/-- One row of R55 as the text form needs it: mnemonic, source name, widths of the listed operand ports. -/
structure TextRow where
  mnemonic : String
  source : String
  widths : List Nat
  deriving DecidableEq, Repr

/-- The mnemonics of R55 with the source's function names, which R62 accepts as aliases. -/
def textRows : List TextRow :=
  [ ⟨"DECODE", "decode", [8]⟩,
    ⟨"ENCODE", "encode", [8]⟩,
    ⟨"ADMIT", "admit", [32]⟩,
    ⟨"INC_HOUR", "increment_hour", [8]⟩,
    ⟨"INC_MINUTE", "increment_minute", [8, 8]⟩,
    ⟨"NORMALIZE", "normalize", [8]⟩,
    ⟨"APPLY_EXTERNAL_TIME", "apply_external_time", [8, 8, 8]⟩,
    ⟨"ON_HOUR_BUTTON", "on_hour_button", []⟩,
    ⟨"ON_MINUTE_BUTTON", "on_minute_button", []⟩,
    ⟨"ON_EXTERNAL_SYNC", "on_external_sync", []⟩,
    ⟨"TICK", "tick", []⟩ ]

/-- The row a name stands for, by mnemonic or by source name (R62). -/
def TextCommand.row (x : TextCommand) : Option TextRow :=
  textRows.find? fun r => r.mnemonic == x.name || r.source == x.name

end Sys2Proof
end

