-- ==== Sys2Proof/WellFormed.lean ====
section
/-! DEFINITION. Well-formed commands: which op codes select an operation (30_encoding.md rules R58, R59), which
operand ports an op code lists (R55, R56), and which text lines are commands (R62). A term of `Instr` needs no
check of its own: its operands have the types of the ports. -/

namespace Sys2Proof

/-- The op code selects an operation: 0x0 to 0xA (R58; premise P-OPS of R154). 0xB to 0xF are reserved (R59). -/
def Command.opDefined (c : Command) : Bool := decide (c.op.toNat ≤ 10)

/-- How many of the ports `a`, `b`, `c` the row of R55 lists for an op code. -/
def listedBytes (op : OpCode) : Nat :=
  match op.toNat with
  | 0 => 1
  | 1 => 1
  | 3 => 1
  | 4 => 2
  | 5 => 1
  | 6 => 3
  | _ => 0

/-- The port `t` is listed for ADMIT alone (R55, R56). -/
def listsTime (op : OpCode) : Bool := op.toNat == 2

/-- The command with every port its op code does not list at zero: those values are ignored and change nothing
(R56), so this is the same operation. -/
def Command.canon (c : Command) : Command :=
  { op := c.op
    a := if 1 ≤ listedBytes c.op then c.a else 0
    b := if 2 ≤ listedBytes c.op then c.b else 0
    c := if 3 ≤ listedBytes c.op then c.c else 0
    t := if listsTime c.op then c.t else 0 }

/-- No unlisted operand port carries a value. -/
def Command.portsClear (c : Command) : Bool := c.canon == c

/-- A well-formed command: the op code is not reserved and the unlisted ports are at zero, the one form in
which the encoder writes each operation. -/
def Command.wf (c : Command) : Bool := c.opDefined && c.portsClear

/-- The name is a mnemonic of R55 or one of the source's function names (R62). -/
def TextCommand.nameKnown (x : TextCommand) : Bool := x.row.isSome

/-- The line has as many operands as the row lists (R55, R62). -/
def TextCommand.countFits (x : TextCommand) : Bool :=
  match x.row with
  | some r => x.operands.length == r.widths.length
  | none => false

/-- Each operand fits its port (R56). -/
def TextCommand.valuesFit (x : TextCommand) : Bool :=
  match x.row with
  | some r => (x.operands.zip r.widths).all fun p => decide (p.1 < 2 ^ p.2)
  | none => false

/-- A well-formed text command (R62). -/
def TextCommand.wf (x : TextCommand) : Bool := x.nameKnown && x.countFits && x.valuesFit

end Sys2Proof
end

