-- ==== Sys2Proof/Decode.lean ====
section
/-! DEFINITION. Decoding: from the command port to an operation (30_encoding.md rules R55 to R59), from text
(R62), and the encoder written from the same table. -/

namespace Sys2Proof

/-- Decoding a command. Only `op[3:0]` selects (R58); an operation takes the ports its row lists and no other
(R56); a reserved op code is rejected by its number (R59). -/
def decodeCommand (x : Command) : Except OpCode Instr :=
  match x.op.toNat with
  | 0 => .ok (.decode x.a)
  | 1 => .ok (.encode x.a)
  | 2 => .ok (.admitAt x.t)
  | 3 => .ok (.incHour x.a)
  | 4 => .ok (.incMinute x.a x.b)
  | 5 => .ok (.normalize x.a)
  | 6 => .ok (.applyExternalTime x.a x.b x.c)
  | 7 => .ok .onHourButton
  | 8 => .ok .onMinuteButton
  | 9 => .ok .onExternalSync
  | 10 => .ok .tick
  | _ => .error x.op

/-- The op code of an operation (R55). -/
def Instr.opcode : Instr → OpCode
  | .decode _ => 0x0#4
  | .encode _ => 0x1#4
  | .admitAt _ => 0x2#4
  | .incHour _ => 0x3#4
  | .incMinute _ _ => 0x4#4
  | .normalize _ => 0x5#4
  | .applyExternalTime _ _ _ => 0x6#4
  | .onHourButton => 0x7#4
  | .onMinuteButton => 0x8#4
  | .onExternalSync => 0x9#4
  | .tick => 0xA#4

/-- A command with every operand port at zero. -/
def Command.bare (op : OpCode) : Command := { op := op, a := 0#8, b := 0#8, c := 0#8, t := 0#32 }

/-- The command that asks for an operation: its op code and its operands on the ports R55 lists, zero on the
others (log entry 26). -/
def encodeCommand (i : Instr) : Command :=
  match i with
  | .decode a => { Command.bare i.opcode with a := a }
  | .encode a => { Command.bare i.opcode with a := a }
  | .admitAt t => { Command.bare i.opcode with t := t }
  | .incHour a => { Command.bare i.opcode with a := a }
  | .incMinute a b => { Command.bare i.opcode with a := a, b := b }
  | .normalize a => { Command.bare i.opcode with a := a }
  | .applyExternalTime a b c => { Command.bare i.opcode with a := a, b := b, c := c }
  | .onHourButton => Command.bare i.opcode
  | .onMinuteButton => Command.bare i.opcode
  | .onExternalSync => Command.bare i.opcode
  | .tick => Command.bare i.opcode

/-- The command whose op code stands in the low four bits of a table word of `nbits` bits, every operand port
at zero: the table gives the operands no bits (R58; log entry 25). -/
def tableCommand (nbits w : Nat) : Command := Command.bare (BitVec.ofNat 4 (w % 2 ^ nbits))

/-- What the decoder reads from a table word. -/
def decodeTableWord (nbits w : Nat) : Option Instr := (decodeCommand (tableCommand nbits w)).toOption

/-- The operation a mnemonic and its operands ask for. -/
def instrOfMnemonic (mnemonic : String) (operands : List Nat) : Option Instr :=
  match mnemonic, operands with
  | "DECODE", [a] => some (.decode (BitVec.ofNat 8 a))
  | "ENCODE", [a] => some (.encode (BitVec.ofNat 8 a))
  | "ADMIT", [t] => some (.admitAt (BitVec.ofNat 32 t))
  | "INC_HOUR", [a] => some (.incHour (BitVec.ofNat 8 a))
  | "INC_MINUTE", [a, b] => some (.incMinute (BitVec.ofNat 8 a) (BitVec.ofNat 8 b))
  | "NORMALIZE", [a] => some (.normalize (BitVec.ofNat 8 a))
  | "APPLY_EXTERNAL_TIME", [a, b, c] =>
    some (.applyExternalTime (BitVec.ofNat 8 a) (BitVec.ofNat 8 b) (BitVec.ofNat 8 c))
  | "ON_HOUR_BUTTON", [] => some .onHourButton
  | "ON_MINUTE_BUTTON", [] => some .onMinuteButton
  | "ON_EXTERNAL_SYNC", [] => some .onExternalSync
  | "TICK", [] => some .tick
  | _, _ => none

/-- The operation a text command asks for (R62): mnemonics and the source's names alike; a line that is not
well formed asks for none. -/
def TextCommand.parse (x : TextCommand) : Option Instr :=
  if x.wf then
    match x.row with
    | some r => instrOfMnemonic r.mnemonic x.operands
    | none => none
  else none

end Sys2Proof
end

