-- ==== Sys2Proof/Config.lean ====
section
/-! DEFINITION. What is fixed for a given block (00_scope.md rule R5, 10_state.md rule R24) and the free values. -/

namespace Sys2Proof.Config

/-- The refractory window of the debounce gate, in milliseconds (R5 `T_REFRACT`, R11). -/
def tRefract : Nat := 200

/-- The largest hour value (R5 `HOUR_MAX`). -/
def hourMax : Nat := 23

/-- The largest minute value (R5 `MIN_MAX`). -/
def minMax : Nat := 59

/-- The largest second value (R5 `SEC_MAX`). -/
def secMax : Nat := 59

/-- The smallest hour that NORMALIZE maps to 0 (R5 `NORM_ZERO_FROM`; 90_conflicts.md C5). -/
def normZeroFrom : Nat := 24

/-- NORMALIZE subtracts 12 from hours strictly above this (R5 `NORM_SUB_ABOVE`). -/
def normSubAbove : Nat := 12

/-- The largest integer ENCODE accepts (R5 `ENC_MAX`). -/
def encMax : Nat := 99

/-- The marker bit of the seconds byte as a mask (R5 `MARKER_BIT`, R53): bit 7. -/
def markerMask : Byte := 0x80#8

/-- What removes the marker before a seconds byte is decoded (R54, R116). -/
def markerStrip : Byte := 0x7F#8

/-- What an address of the register store that nothing has written reads as.
DESIGN CHOICE (log entry 4), unsafe: the spec gives no contents (R16, U5). -/
def unwritten : Byte := 0x00#8

/-- The parameters the spec leaves OPEN or names as a configuration field (R5; 92_eei_decisions.md, end).
They are data of the machine, fixed from reset on, so that a statement about every state is a statement
about every assignment of them (log entries 1, 2, 3). -/
structure Params where
  /-- `A_HOUR` -/
  aHour : Addr
  /-- `A_MIN` -/
  aMin : Addr
  /-- `A_SEC` -/
  aSec : Addr
  /-- `ENV_RTC_WRITES`: the RTC may write the three registers by itself (R39). -/
  envRtcWrites : Bool
  /-- `ATOMIC_OPS`: operations execute one at a time (R38); false is the legacy interleaving of R40. -/
  atomicOps : Bool
  deriving DecidableEq, Repr

/-- The three addresses are pairwise distinct (R5, R32). -/
abbrev Params.Distinct (p : Params) : Prop :=
  p.aHour ≠ p.aMin ∧ p.aHour ≠ p.aSec ∧ p.aMin ≠ p.aSec

/-- The assignment `State.reset` stands on. DESIGN CHOICE (log entries 1, 2): the example binding of
95_test_vectors.md (G1) and P-QUIET; `ATOMIC_OPS` = true is R5's. -/
def resetParams : Params :=
  { aHour := 0x02#8, aMin := 0x01#8, aSec := 0x00#8, envRtcWrites := false, atomicOps := true }

/-- FREE VALUE (log entry 5): the `n`-th byte drawn where the spec fixes none, DECODE of a non-BCD byte
(R71, U1). It has no body, so nothing can be proved of its value. -/
opaque freeByte : Nat → Byte

end Sys2Proof.Config
end

