-- ==== Sys2Proof/Machine/Flags.lean ====
section
/-! DEFINITION. The one-bit results: `accepted` of the gate (41_debounce.md rules R80, R81), `carried` of the
incrementer (42_incrementer.md rule R91), and the indicator's inversion (45_entry_points.md rule R116). The block
stores no flag (10_state.md rule R13). -/

namespace Sys2Proof.Machine

/-- A truth value on a one-bit port: 1 = true (R80, R91). -/
def flagBit (b : Bool) : Bit := BitVec.ofBool b

/-- Milliseconds since the stored time, as the 32-bit difference with wrap-around (R81). -/
def elapsed (now last : Time) : Time := now - last

/-- Whether the gate accepts: strictly more than `T_REFRACT` since the stored time, compared unsigned (R80). -/
def accepted (now last : Time) : Bool := decide ((elapsed now last).toNat > Config.tRefract)

/-- Whether a minute carries: the exact sum is above 59 (R91, R94). -/
def carried (minute : Byte) : Bool := decide (minute.toNat + 1 > Config.minMax)

/-- The other state of the indicator: `1 - S.led` (R116). -/
def invertBit (b : Bit) : Bit := 1#1 - b

end Sys2Proof.Machine
end

