-- ==== Sys2Proof/Machine/State.lean ====
section
/-! DEFINITION. The state: the block's two elements (10_state.md rules R10 to R12), the register store (R16 to R19),
the result ports (30_encoding.md rule R57), what waits (R22 b), and the environment the rules read through answers
(R23) with the script of what it will do. -/

namespace Sys2Proof.Machine

/-- The register store `RS` (R16, R30): the bytes that differ from what an unwritten address reads as, by rising
address. -/
abbrev Memory := List Host.Cell

/-- The three trigger sources `TRIG_H`, `TRIG_M`, `TRIG_S` (R6, R135). -/
inductive Trigger where
  | hourButton
  | minuteButton
  | externalSync
  deriving DecidableEq, Repr

/-- What can wait to run (R22 b, R137): an invocation of a trigger entry point or of `tick`, holding nothing but
which one it is, or a command on the command port (R55). -/
inductive Request where
  | trigger (k : Trigger)
  | tick
  | command (x : Command)
  deriving DecidableEq, Repr

/-- One of the three registers of the store the block uses (R17 to R19). -/
inductive Field where
  | hour
  | minute
  | second
  deriving DecidableEq, Repr

/-- The collaborators that answer the block's calls: the bus to the RTC (`ENV_RTC`), the millisecond counter
(`ENV_CLK`) and the external time source (`ENV_TIME`), R6. -/
inductive Collaborator where
  | bus
  | clock
  | timeSource
  deriving DecidableEq, Repr

/-- One collaborator call of a micro-step, with what was passed and answered (R8, R31, R37). -/
inductive Call where
  | millis (answer : Time)
  | extHours (answer : Byte)
  | extMinutes (answer : Byte)
  | extSeconds (answer : Byte)
  | regRead (address : Addr) (answer : Byte)
  | regWrite (address : Addr) (value : Byte)
  deriving DecidableEq, Repr

/-- What an environment agent can do between two micro-steps or between two operations (R6). -/
inductive Event where
  /-- `ENV_RTC` writes one of the three registers; without effect unless `ENV_RTC_WRITES` (R39). -/
  | rtcWrite (f : Field) (v : Byte)
  /-- the millisecond counter of `ENV_CLK` now reads `now` (R23, R144). -/
  | clock (now : Time)
  /-- the external time source now has these values (R23, R164). -/
  | extTime (h m s : Byte)
  /-- a collaborator never answers from here on (R134, U9). -/
  | silent (who : Collaborator)
  /-- a request arrives (R135, R137). -/
  | request (r : Request)
  /-- `HOST` tears the block down (R142). -/
  | teardown
  /-- `HOST` resets the block (R150). -/
  | reset
  deriving DecidableEq, Repr

/-- The environment: what its agents would answer now, whether they answer, and what they will do. -/
structure Env where
  /-- the answer of `Millis()` (R23) -/
  clock : Time
  /-- the answer of `ExtHours()` -/
  extHours : Byte
  /-- the answer of `ExtMinutes()` -/
  extMinutes : Byte
  /-- the answer of `ExtSeconds()` -/
  extSeconds : Byte
  /-- `ENV_CLK` answers (P-ANSWER, R154) -/
  clockAnswers : Bool
  /-- the bus answers (P-ANSWER) -/
  busAnswers : Bool
  /-- the time source answers (P-ANSWER) -/
  extAnswers : Bool
  /-- what happens at each coming point between micro-steps or operations, first point first; nothing more once
  it is used up (log entry 9) -/
  script : List (List Event)
  /-- which waiting request runs next, each time one is chosen; the oldest once it is used up (R138, log entry 13) -/
  choices : List Nat
  deriving DecidableEq, Repr

/-- The result ports (R57). A port the last operation did not drive carries no meaning and has no value (R57, U11). -/
structure Results where
  r0 : Option Byte
  r1 : Option Byte
  r2 : Option Byte
  flag : Option Bit
  led : Option Bit
  deriving DecidableEq, Repr

/-- No result port driven. -/
def Results.undriven : Results := { r0 := none, r1 := none, r2 := none, flag := none, led := none }

/-- The machine's state. -/
structure State where
  /-- configuration, never written (R24; log entry 1) -/
  params : Config.Params
  /-- `S.last_accepted`: the time of the last trigger event, accepted or not (R11) -/
  lastAccepted : Time
  /-- `S.led`: 0 = LED_OFF, 1 = LED_ON (R12) -/
  led : Bit
  /-- the register store `RS` (R16) -/
  mem : Memory
  /-- the result ports as the last operation left them (R57) -/
  out : Results
  /-- the collaborator calls of the last operation, first call first; the model's own record (log entry 17) -/
  calls : List Call
  /-- the requests that wait, oldest first (R22 b, R137) -/
  waiting : List Request
  /-- the block has been torn down and not reset since (R142) -/
  stopped : Bool
  /-- the environment (R23) -/
  env : Env
  /-- how many free bytes have been drawn; the model's own counter (U1, log entry 5) -/
  draws : Nat
  deriving DecidableEq, Repr

/-- The ways a run goes wrong (R133); each carries the state it leaves, in which the micro-steps before it have
taken effect (R106 b). -/
inductive Fault where
  /-- Raised by ENCODE, APPLY_EXTERNAL_TIME and ON_EXTERNAL_SYNC where an integer above 99 is to be encoded (R73,
  R106 b, R131). Safe: the hardware signals nothing and goes on with an unspecified byte; nothing is claimed of that. -/
  | outOfRangeEncode (left : State)
  /-- Raised at a `Millis`, getter, `RegRead` or `RegWrite` micro-step whose collaborator never answers (R133, R134, U9).
  Safe: the access has no step. -/
  | stuck (who : Collaborator) (left : State)
  deriving DecidableEq, Repr

/-- Why the model gives no meaning. -/
inductive Refusal where
  /-- Raised by `exec` for an instruction without a meaning yet; no arm does. Safe: nothing is claimed. -/
  | notModelled (mnemonic : String)
  /-- Raised by `step` for a command whose op code is 0xB to 0xF (R59, R133 `refuse ReservedOp`). Safe: the
  environment must not present one (P-OPS). -/
  | reservedOp (op : OpCode)
  deriving DecidableEq, Repr

/-- The environment at reset. DESIGN CHOICE (log entries 9 to 13), unsafe: the spec gives the counter, the time source
and the schedule no initial value (R23, R151). -/
def Env.reset : Env :=
  { clock := 0#32, extHours := 0#8, extMinutes := 0#8, extSeconds := 0#8,
    clockAnswers := true, busAnswers := true, extAnswers := true, script := [], choices := [] }

/-- The machine right after reset (R150, R151): both state elements 0, nothing in flight or waiting, no result driven.
The register store lists nothing, so every register reads as `Config.unwritten` (DESIGN CHOICE, log entry 4). -/
def State.reset : State :=
  { params := Config.resetParams, lastAccepted := 0#32, led := 0#1, mem := [], out := Results.undriven, calls := [],
    waiting := [], stopped := false, env := Env.reset, draws := 0 }

end Sys2Proof.Machine
end

