-- ==== Sys2Proof/Machine/Ops.lean ====
section
/-! DEFINITION. The operations everything else is written over: the register store's bytes, the named updates of the
state, running micro-steps in order (20_memory.md rule R37), entering and leaving an operation (60_exceptions.md
rules R139, R140), and what the environment does between two micro-steps (R39, R137, R142, R150). -/

namespace Sys2Proof.Machine

/-! ### The register store -/

/-- `RS[a]` (R33): the byte last written to `a`. -/
def Memory.read : Memory → Nat → Byte
  | [], _ => Config.unwritten
  | (b, w) :: m, a => if b = a then w else Memory.read m a

/-- One cell, unless it holds what an unwritten address reads as. -/
def Memory.cell (a : Nat) (v : Byte) : Memory := if v = Config.unwritten then [] else [(a, v)]

/-- `RS` with `v` at `a` (R31, R35), in the canonical form. -/
def Memory.write : Memory → Nat → Byte → Memory
  | [], a, v => Memory.cell a v
  | (b, w) :: m, a, v =>
    if a < b then Memory.cell a v ++ (b, w) :: m
    else if a = b then Memory.cell a v ++ m
    else (b, w) :: Memory.write m a v

/-- The canonical form from address `lo` up: addresses strictly rising and inside the 8-bit space (R30), and no
entry that equals what an unlisted address reads as. -/
def Memory.wfFrom : Nat → Memory → Bool
  | _, [] => true
  | lo, (a, v) :: m =>
    decide (lo ≤ a) && decide (a < 256) && decide (v ≠ Config.unwritten) && Memory.wfFrom (a + 1) m

/-- The register store is in canonical form. -/
def Memory.wf (m : Memory) : Bool := Memory.wfFrom 0 m

/-! ### Updates of the state -/

/-- Address of one of the three registers (R17 to R19). -/
def addressOf (p : Config.Params) (f : Field) : Addr :=
  match f with
  | .hour => p.aHour
  | .minute => p.aMin
  | .second => p.aSec

/-- The byte at an address of the register store, without a call on the bus. -/
def State.reg (s : State) (a : Addr) : Byte := Memory.read s.mem a.toNat

/-- `v` becomes the byte at `a` (R35: complete at once). -/
def State.store (s : State) (a : Addr) (v : Byte) : State := { s with mem := Memory.write s.mem a.toNat v }

/-- A collaborator call is recorded (log entry 17). -/
def State.log (s : State) (x : Call) : State := { s with calls := s.calls ++ [x] }

/-- `S.last_accepted <- t` (R80). -/
def State.setLast (s : State) (t : Time) : State := { s with lastAccepted := t }

/-- `S.led <- 1 - S.led` (R116). -/
def State.invertLed (s : State) : State := { s with led := invertBit s.led }

/-- The result ports are driven (R57). -/
def State.drive (s : State) (r : Results) : State := { s with out := r }

/-- One more free byte has been drawn (U1). -/
def State.draw (s : State) : State := { s with draws := s.draws + 1 }

/-- A request waits behind those that wait (R137: never dropped, never merged). -/
def State.enqueue (s : State) (r : Request) : State := { s with waiting := s.waiting ++ [r] }

/-- The requests that wait become `w`. -/
def State.setWaiting (s : State) (w : List Request) : State := { s with waiting := w }

/-- The part of the script still to come becomes `sc`. -/
def State.setScript (s : State) (sc : List (List Event)) : State := { s with env := { s.env with script := sc } }

/-- The millisecond counter reads `now` (R23). -/
def State.setClock (s : State) (now : Time) : State := { s with env := { s.env with clock := now } }

/-- The external time source has these values (R23). -/
def State.setExt (s : State) (h m sec : Byte) : State :=
  { s with env := { s.env with extHours := h, extMinutes := m, extSeconds := sec } }

/-- A collaborator never answers from here on (R134). -/
def State.silence (s : State) (who : Collaborator) : State :=
  { s with
    env := { s.env with
      clockAnswers := s.env.clockAnswers && who != .clock
      busAnswers := s.env.busAnswers && who != .bus
      extAnswers := s.env.extAnswers && who != .timeSource } }

/-- The schedule's next choice is used up (R138). -/
def State.useChoice (s : State) : State := { s with env := { s.env with choices := s.env.choices.tail } }

/-- Teardown (R142): the block runs no more until it is reset; nothing else changes. -/
def State.stop (s : State) : State := { s with stopped := true }

/-- Reset (R150, R151): both state elements to 0, waiting invocations discarded, no result driven; the register
store, the environment and the configuration as they are. -/
def State.blockReset (s : State) : State :=
  { s with lastAccepted := 0#32, led := 0#1, out := Results.undriven, waiting := [], stopped := false }

/-! ### Running micro-steps -/

/-- How a piece of an operation ends: with a value and the next micro-step to come; abandoned by teardown or reset
(R142, R150); or in a model fault (R133). -/
inductive Run (α : Type) where
  | go (a : α) (s : State)
  | abandoned (s : State)
  | fault (f : Fault)
  deriving Repr

/-- What follows in the same micro-step. -/
def Run.andThen {α β : Type} (r : Run α) (f : α → State → Run β) : Run β :=
  match r with
  | .go a s => f a s
  | .abandoned s => .abandoned s
  | .fault x => .fault x

/-- What follows in the NEXT micro-step (R37): between the two the environment may act, through `bd`. -/
def Run.thenNext {α β : Type} (bd : State → Run Unit) (r : Run α) (f : α → State → Run β) : Run β :=
  r.andThen fun a s => (bd s).andThen fun _ s' => f a s'

/-- Entering an operation (R139): nothing is saved or switched; no result port is driven yet (R57) and no
collaborator has been called. -/
def State.enter (s : State) : State := { s with out := Results.undriven, calls := [] }

/-- Leaving an operation (R140): nothing is restored. An abandoned operation leaves the state at the point where
it was abandoned (R142, R150). -/
def Run.finish (r : Run Unit) : Host.Outcome State Fault Refusal :=
  match r with
  | .go _ s => .next s
  | .abandoned s => .next s
  | .fault f => .fault f

/-- `RegWrite(a, v)` (R31): one micro-step's call on the bus. -/
def regWrite (a : Addr) (v : Byte) (s : State) : Run Unit :=
  if s.env.busAnswers then .go () ((s.store a v).log (.regWrite a v))
  else .fault (.stuck .bus s)

/-! ### What the environment does between two micro-steps -/

/-- One event of the environment. -/
def State.deliver (s : State) (e : Event) : State :=
  match e with
  | .rtcWrite f v => if s.params.envRtcWrites then s.store (addressOf s.params f) v else s
  | .clock now => s.setClock now
  | .extTime h m sec => s.setExt h m sec
  | .silent who => s.silence who
  | .request r => s.enqueue r
  | .teardown => s.stop
  | .reset => s.blockReset

/-- The events of one slot, in order. -/
def State.deliverAll (s : State) (es : List Event) : State := es.foldl State.deliver s

/-- The event ends whatever operation is in flight (R142, R150). -/
def Event.abandons (e : Event) : Bool :=
  match e with
  | .teardown => true
  | .reset => true
  | .rtcWrite _ _ => false
  | .clock _ => false
  | .extTime _ _ _ => false
  | .silent _ => false
  | .request _ => false

/-- The next slot of the script is delivered; without a script nothing happens. Requests that arrive wait (R137). -/
def State.arrive (s : State) : State :=
  match s.env.script with
  | [] => s
  | slot :: rest => (s.setScript rest).deliverAll slot

/-- Whether the next slot of the script abandons an operation in flight. -/
def State.slotAbandons (s : State) : Bool :=
  match s.env.script with
  | [] => false
  | slot :: _ => slot.any Event.abandons

/-- The point between two micro-steps with `ATOMIC_OPS` = true (R38, R39): the environment acts, no other operation
runs, and teardown or reset abandons the operation in flight. -/
def atomicBoundary (s : State) : Run Unit :=
  if s.slotAbandons then .abandoned s.arrive else .go () s.arrive

end Sys2Proof.Machine
end

