-- ==== Sys2Proof/Machine/Operands.lean ====
section
/-! DEFINITION. Where an operation's values come from: the operand ports of a command (30_encoding.md rule R56), and the
collaborator calls that answer a value (00_scope.md rule R8; 20_memory.md rule R31). -/

namespace Sys2Proof.Machine

/-- The entry point a trigger source is tied to (R135); the association is fixed (R139). -/
def Trigger.opcode (k : Trigger) : OpCode :=
  match k with
  | .hourButton => 0x7#4
  | .minuteButton => 0x8#4
  | .externalSync => 0x9#4

/-- The command a waiting request stands for. Entry points take no operands, so nothing stands on the operand
ports (R56, R137). -/
def Request.toCommand (r : Request) : Command :=
  match r with
  | .trigger k => Command.bare k.opcode
  | .tick => Command.bare 0xA#4
  | .command x => x

/-- `Millis()` (R8, R23): the current value of the millisecond counter. -/
def millis (s : State) : Run Time :=
  if s.env.clockAnswers then .go s.env.clock (s.log (.millis s.env.clock))
  else .fault (.stuck .clock s)

/-- `ExtHours()` (R8). -/
def extHours (s : State) : Run Byte :=
  if s.env.extAnswers then .go s.env.extHours (s.log (.extHours s.env.extHours))
  else .fault (.stuck .timeSource s)

/-- `ExtMinutes()` (R8). -/
def extMinutes (s : State) : Run Byte :=
  if s.env.extAnswers then .go s.env.extMinutes (s.log (.extMinutes s.env.extMinutes))
  else .fault (.stuck .timeSource s)

/-- `ExtSeconds()` (R8). -/
def extSeconds (s : State) : Run Byte :=
  if s.env.extAnswers then .go s.env.extSeconds (s.log (.extSeconds s.env.extSeconds))
  else .fault (.stuck .timeSource s)

/-- `RegRead(a)` (R31, R33): the byte most recently written to `a`; no side effect on the store. -/
def regRead (a : Addr) (s : State) : Run Byte :=
  if s.env.busAnswers then .go (s.reg a) (s.log (.regRead a (s.reg a)))
  else .fault (.stuck .bus s)

end Sys2Proof.Machine
end

