-- ==== Sys2Proof/Machine/Debounce.lean ====
section
/-! DEFINITION. The Debounce Gate (41_debounce.md): ADMIT, and the gate as the first two micro-steps of every trigger
entry point (45_entry_points.md rules R110, R112, R114). -/

namespace Sys2Proof.Machine

/-- ADMIT inside an entry point (R80): one micro-step with `ATOMIC_OPS` = true; in the legacy interleaving the
comparison and the write are two micro-steps (R40). -/
def admitStep (bd : State → Run Unit) (t : Time) (s : State) : Run Bool :=
  if s.params.atomicOps then .go (accepted t s.lastAccepted) (s.setLast t)
  else (bd s).andThen fun _ s' => .go (accepted t s.lastAccepted) (s'.setLast t)

/-- Micro-steps 1 and 2 of a trigger entry point: `t <- Millis()`, `ok <- ADMIT(t)`. One gate for all sources (R82). -/
def gate (bd : State → Run Unit) (s : State) : Run Bool :=
  (millis s).thenNext bd fun t s' => admitStep bd t s'

/-- ADMIT as a command (R80, R56: the time comes from the `t` port). -/
def execAdmit (t : Time) (s : State) : Host.Outcome State Fault Refusal :=
  .next ((s.enter.setLast t).drive { Results.undriven with flag := some (flagBit (accepted t s.lastAccepted)) })

end Sys2Proof.Machine
end

