-- ==== Sys2Proof/Machine/Codec.lean ====
section
/-! DEFINITION. The Packed-Decimal Codec (40_codec.md): DECODE, ENCODE, and the encode-and-store that the sequenced
operations perform. -/

namespace Sys2Proof.Machine

/-- The high nibble, `b[7:4]`: "byte div 16" (R50, R70). -/
def tensOf (b : Byte) : Nat := b.toNat / 16

/-- The low nibble, `b[3:0]`: "byte mod 16" (R50, R70). -/
def onesOf (b : Byte) : Nat := b.toNat % 16

/-- A BCD byte: both nibbles at most 9 (R52 b). -/
def isBcd (b : Byte) : Bool := decide (tensOf b ≤ 9) && decide (onesOf b ≤ 9)

/-- An in-domain byte: tens at most 5 and ones at most 9 (R52 a). -/
def inDomain (b : Byte) : Bool := decide (tensOf b ≤ 5) && decide (onesOf b ≤ 9)

/-- The integer a BCD byte stands for: `10*tens + ones` (R51, R70). -/
def bcdValue (b : Byte) : Byte := BitVec.ofNat 8 (10 * tensOf b + onesOf b)

/-- The PackedByte of an integer at most 99: `16*(v div 10) + v mod 10` (R51, R72). -/
def bcdByte (v : Byte) : Byte := BitVec.ofNat 8 (16 * (v.toNat / 10) + v.toNat % 10)

/-- `DECODE(b)` as a value, when `n` free bytes have been drawn. A BCD byte has the value of R70; for any other byte the value is free, a fresh one for
each evaluation (R71, U1: two decodes of one byte need not agree). -/
def decodedValue (b : Byte) (n : Nat) : Byte := if isBcd b then bcdValue b else Config.freeByte n

/-- What `DECODE(b)` does to the state: nothing, but that a free value, where one is used, is used up. -/
def decodedState (b : Byte) (s : State) : State := if isBcd b then s else s.draw

/-- `ENCODE(v)`: the PackedByte, or the model outcome `fault OutOfRangeEncode` above 99 (R72, R73). -/
def encoded (v : Byte) (s : State) : Run Byte :=
  if v.toNat ≤ Config.encMax then .go (bcdByte v) s else .fault (.outOfRangeEncode s)

/-- `RegWrite(a, ENCODE(v) OR mark)`, one micro-step (R105, R110, R112, R114). -/
def storeEncoded (a : Addr) (v mark : Byte) (s : State) : Run Unit :=
  (encoded v s).andThen fun e s' => regWrite a (e ||| mark) s'

/-- The result port `r0` alone is driven. -/
def Results.value (v : Byte) : Results := { Results.undriven with r0 := some v }

/-- DECODE (R70, R71). -/
def execDecode (a : Byte) (s : State) : Host.Outcome State Fault Refusal :=
  .next ((decodedState a s.enter).drive (Results.value (decodedValue a s.draws)))

/-- ENCODE (R72, R73). -/
def execEncode (a : Byte) (s : State) : Host.Outcome State Fault Refusal :=
  ((encoded a s.enter).andThen fun e s' => .go () (s'.drive (Results.value e))).finish

end Sys2Proof.Machine
end

