-- ==== Sys2Proof/Machine/Incrementer.lean ====
section
/-! DEFINITION. The Field Incrementer (42_incrementer.md): INC_HOUR, INC_MINUTE. -/

namespace Sys2Proof.Machine

/-- `INC_HOUR(h)` (R90, R94): the sum is exact, with no 8-bit wrap. -/
def incHour (h : Byte) : Byte :=
  if h.toNat + 1 > Config.hourMax then 0#8 else BitVec.ofNat 8 (h.toNat + 1)

/-- The minute of `INC_MINUTE(m, h)` (R91, R94). -/
def nextMinute (m : Byte) : Byte := if carried m then 0#8 else BitVec.ofNat 8 (m.toNat + 1)

/-- The hour of `INC_MINUTE(m, h)` (R91, R92): INC_HOUR applied once on a carry, else passed through. -/
def nextHour (m h : Byte) : Byte := if carried m then incHour h else h

/-- INC_HOUR (R90). -/
def execIncHour (a : Byte) (s : State) : Host.Outcome State Fault Refusal :=
  .next (s.enter.drive (Results.value (incHour a)))

/-- INC_MINUTE (R91). -/
def execIncMinute (a b : Byte) (s : State) : Host.Outcome State Fault Refusal :=
  .next (s.enter.drive
    { Results.undriven with
      r0 := some (nextMinute a)
      r1 := some (nextHour a b)
      flag := some (flagBit (carried a)) })

end Sys2Proof.Machine
end

