-- ==== Sys2Proof/Machine/Normalizer.lean ====
section
/-! DEFINITION. The Hour-Format Normalizer (43_normalizer.md): NORMALIZE. -/

namespace Sys2Proof.Machine

/-- `NORMALIZE(h)` (R100), the three cases in their order. -/
def normalizeHour (h : Byte) : Byte :=
  if h.toNat ≥ Config.normZeroFrom then 0#8
  else if h.toNat > Config.normSubAbove then BitVec.ofNat 8 (h.toNat - 12)
  else h

/-- NORMALIZE (R100). -/
def execNormalize (a : Byte) (s : State) : Host.Outcome State Fault Refusal :=
  .next (s.enter.drive (Results.value (normalizeHour a)))

end Sys2Proof.Machine
end

