-- ==== Sys2Proof/Machine/SyncAdapter.lean ====
section
/-! DEFINITION. The Time Sync Adapter (44_sync_adapter.md): APPLY_EXTERNAL_TIME. -/

namespace Sys2Proof.Machine

/-- The three writes of APPLY_EXTERNAL_TIME, one micro-step each (R105): hour, minute, seconds with its marker. -/
def applyTime (bd : State → Run Unit) (h m sec : Byte) (s : State) : Run Unit :=
  (storeEncoded s.params.aHour (normalizeHour h) 0#8 s).thenNext bd fun _ s1 =>
  (storeEncoded s1.params.aMin m 0#8 s1).thenNext bd fun _ s2 =>
  storeEncoded s2.params.aSec sec Config.markerMask s2

/-- APPLY_EXTERNAL_TIME (R105, R106). It is no trigger entry point and not TICK, so no trigger runs inside it in
either interleaving (R38, R40). -/
def execApplyExternalTime (a b c : Byte) (s : State) : Host.Outcome State Fault Refusal :=
  (applyTime atomicBoundary a b c s.enter).finish

end Sys2Proof.Machine
end

