-- ==== Sys2Proof/Machine/EntryPoints.lean ====
section
/-! DEFINITION. The entry points and the Display Loop (45_entry_points.md): ON_HOUR_BUTTON, ON_MINUTE_BUTTON,
ON_EXTERNAL_SYNC, TICK; and the point between two micro-steps in both interleavings (20_memory.md rules R38, R40). -/

namespace Sys2Proof.Machine

/-- ON_HOUR_BUTTON (R110). Suppressed, it stops after the gate (R115). -/
def onHourButton (bd : State → Run Unit) (s : State) : Run Unit :=
  (gate bd s).andThen fun ok s2 =>
    if ok then
      (bd s2).andThen fun _ s3 =>
      (regRead s3.params.aHour s3).thenNext bd fun hb s4 =>
      storeEncoded s4.params.aHour (incHour (decodedValue hb s4.draws)) 0#8 (decodedState hb s4)
    else .go () s2

/-- Micro-steps 5 and 6 of ON_MINUTE_BUTTON (R112): the minute is written, the hour only on a carry. -/
def storeMinute (bd : State → Run Unit) (m h : Byte) (s : State) : Run Unit :=
  (storeEncoded s.params.aMin (nextMinute m) 0#8 s).andThen fun _ s1 =>
    if carried m then
      (bd s1).andThen fun _ s2 => storeEncoded s2.params.aHour (nextHour m h) 0#8 s2
    else .go () s1

/-- ON_MINUTE_BUTTON (R112). Suppressed, it stops after the gate (R115). -/
def onMinuteButton (bd : State → Run Unit) (s : State) : Run Unit :=
  (gate bd s).andThen fun ok s2 =>
    if ok then
      (bd s2).andThen fun _ s3 =>
      (regRead s3.params.aMin s3).thenNext bd fun mb s4 =>
      (regRead s4.params.aHour s4).thenNext bd fun hb s5 =>
      storeMinute bd (decodedValue mb s5.draws) (decodedValue hb (decodedState mb s5).draws) (decodedState hb (decodedState mb s5))
    else .go () s2

/-- ON_EXTERNAL_SYNC (R114). Suppressed, it stops after the gate (R115). -/
def onExternalSync (bd : State → Run Unit) (s : State) : Run Unit :=
  (gate bd s).andThen fun ok s2 =>
    if ok then
      (bd s2).andThen fun _ s3 =>
      (extHours s3).thenNext bd fun h s4 =>
      (extMinutes s4).thenNext bd fun m s5 =>
      (extSeconds s5).thenNext bd fun sec s6 =>
      applyTime bd h m sec s6
    else .go () s2

/-- The results of TICK (R116): the three bytes decoded, the marker taken off the seconds byte, and the indicator. -/
def showTime (hb mb sb : Byte) (s : State) : Run Unit :=
  let s1 := decodedState hb s
  let s2 := decodedState mb s1
  let s3 := decodedState (sb &&& Config.markerStrip) s2
  .go () (s3.drive
    { Results.undriven with
      r0 := some (decodedValue hb s.draws)
      r1 := some (decodedValue mb s1.draws)
      r2 := some (decodedValue (sb &&& Config.markerStrip) s2.draws)
      led := some s3.led })

/-- TICK (R116). -/
def tick (bd : State → Run Unit) (s : State) : Run Unit :=
  (bd s.invertLed).andThen fun _ s1 =>
  (regRead s1.params.aHour s1).thenNext bd fun hb s2 =>
  (regRead s2.params.aMin s2).thenNext bd fun mb s3 =>
  (regRead s3.params.aSec s3).andThen fun sb s4 =>
  showTime hb mb sb s4

/-- The entry point of a trigger source (R135, R139). -/
def runTrigger (bd : State → Run Unit) (k : Trigger) (s : State) : Run Unit :=
  match k with
  | .hourButton => onHourButton bd s
  | .minuteButton => onMinuteButton bd s
  | .externalSync => onExternalSync bd s

/-- The events of one slot in the legacy interleaving (R40): a trigger request runs its entry point at once, through
`run`; anything else is delivered as it is. The answer says whether the operation in flight has been abandoned;
from then on requests only wait. -/
def deliverPreempt (run : Trigger → State → Run Unit) : List Event → Bool → State → Run Bool
  | [], ab, s => .go ab s
  | .request (.trigger k) :: es, false, s =>
    match run k s with
    | .go _ s' => deliverPreempt run es false s'
    | .abandoned s' => deliverPreempt run es true s'
    | .fault f => .fault f
  | e :: es, ab, s => deliverPreempt run es (ab || e.abandons) (s.deliver e)

/-- The next slot in the legacy interleaving. -/
def preemptBoundary (run : Trigger → State → Run Unit) (s : State) : Run Unit :=
  match s.env.script with
  | [] => .go () s
  | slot :: rest =>
    (deliverPreempt run slot false (s.setScript rest)).andThen fun ab s' =>
      if ab then .abandoned s' else .go () s'

/-- The point between two micro-steps of TICK or of a trigger entry point: with `ATOMIC_OPS` = true that of R38; with
false a trigger may run there, itself interrupted by another (R40). The number bounds the nesting: each level uses
up a slot of the script, so the script's length is enough. -/
def boundary : Nat → State → Run Unit
  | 0 => atomicBoundary
  | n + 1 => fun s =>
    if s.params.atomicOps then atomicBoundary s else preemptBoundary (runTrigger (boundary n)) s

/-- ON_HOUR_BUTTON (R110). -/
def execOnHourButton (s : State) : Host.Outcome State Fault Refusal :=
  (onHourButton (boundary s.env.script.length) s.enter).finish

/-- ON_MINUTE_BUTTON (R112). -/
def execOnMinuteButton (s : State) : Host.Outcome State Fault Refusal :=
  (onMinuteButton (boundary s.env.script.length) s.enter).finish

/-- ON_EXTERNAL_SYNC (R114). -/
def execOnExternalSync (s : State) : Host.Outcome State Fault Refusal :=
  (onExternalSync (boundary s.env.script.length) s.enter).finish

/-- TICK (R116). -/
def execTick (s : State) : Host.Outcome State Fault Refusal :=
  (tick (boundary s.env.script.length) s.enter).finish

end Sys2Proof.Machine
end

