-- ==== Sys2Proof/Machine/Dispatch.lean ====
section
/-! DEFINITION. One arm per operation of 30_encoding.md rule R55. -/

namespace Sys2Proof.Machine

def exec (i : Instr) (s : State) : Host.Outcome State Fault Refusal :=
  match i with
  | .decode a => Sys2Proof.Machine.execDecode a s
  | .encode a => Sys2Proof.Machine.execEncode a s
  | .admitAt t => Sys2Proof.Machine.execAdmit t s
  | .incHour a => Sys2Proof.Machine.execIncHour a s
  | .incMinute a b => Sys2Proof.Machine.execIncMinute a b s
  | .normalize a => Sys2Proof.Machine.execNormalize a s
  | .applyExternalTime a b c => Sys2Proof.Machine.execApplyExternalTime a b c s
  | .onHourButton => Sys2Proof.Machine.execOnHourButton s
  | .onMinuteButton => Sys2Proof.Machine.execOnMinuteButton s
  | .onExternalSync => Sys2Proof.Machine.execOnExternalSync s
  | .tick => Sys2Proof.Machine.execTick s

end Sys2Proof.Machine
end

