-- ==== Sys2Proof/Machine/Fetch.lean ====
section
/-! DEFINITION. Which request runs next (60_exceptions.md rules R137, R138), and how a command is placed to run and run. -/

namespace Sys2Proof.Machine

/-- The index the schedule names among `n` waiting requests, `n > 0`; the oldest where it names none (R138, U10). -/
def State.choice (s : State) (n : Nat) : Nat :=
  match s.env.choices with
  | [] => 0
  | k :: _ => k % n

/-- The state from which the chosen request runs: it waits no longer (R136: an event is consumed by running its entry
point), the others wait on (R137). -/
def State.take (s : State) : State :=
  (s.setWaiting (s.waiting.eraseIdx (s.choice s.waiting.length))).useChoice

/-- The request that runs next, if any waits. -/
def State.next? (s : State) : Option Request := s.waiting[s.choice s.waiting.length]?

/-- The operation of a command, or the refusal of a reserved op code (R59, R133). -/
def runCommand (x : Command) (s : State) : Host.Outcome State Fault Refusal :=
  match decodeCommand x with
  | .ok i => exec i s
  | .error op => .refused (.reservedOp op)

/-- One waiting request runs to its end; with none, nothing happens (R15, R137). -/
def runWaiting (s : State) : Host.Outcome State Fault Refusal :=
  match s.next? with
  | none => .next s
  | some r => runCommand r.toCommand s.take

/-- The state in which the request `x` is the one the next step runs: it stands first among those that wait and the
schedule names it, nothing happens before it, and the block is not torn down. -/
def State.present (s : State) (x : Command) : State :=
  { s with
    waiting := .command x :: s.waiting
    stopped := false
    env := { s.env with script := [] :: s.env.script, choices := 0 :: s.env.choices } }

end Sys2Proof.Machine
end

