-- ==== Sys2Proof/Machine/Step.lean ====
section
/-! DEFINITION. One step: the environment acts between two operations (20_memory.md rule R39), then one waiting request
runs to its end (R38, 60_exceptions.md rules R137 to R140). -/

namespace Sys2Proof.Machine

/-- One step, from one point between completed operations to the next (R167). Torn down, the block runs nothing (R142). -/
def step (s : State) : Host.Outcome State Fault Refusal :=
  if s.arrive.stopped then .next s.arrive else runWaiting s.arrive

/-- `s` with a table word on the command port, to run in the very next step (log entries 18, 25). -/
def State.withFetchWord (s : State) (nbits w : Nat) : State := s.present (tableCommand nbits w)

end Sys2Proof.Machine
end

