-- ==== Sys2Proof/Safety.lean ====
section
/-! DEFINITION. The named premises of 70_reset_and_hazards.md rule R154, as predicates claims take, and the legal
contents of the three registers (10_state.md rules R17 to R20). -/

namespace Sys2Proof.Machine

/-- Nothing of the environment happens while the operation runs: the script is used up. -/
abbrev State.Still (s : State) : Prop := s.env.script = []

/-- P-ANSWER for the calls of this moment (R134, R154): every collaborator answers. -/
abbrev State.Answering (s : State) : Prop :=
  s.env.clockAnswers = true ∧ s.env.busAnswers = true ∧ s.env.extAnswers = true

/-- Times none of which is before the one before it, the first not before `last`. -/
def ascending (last : Time) (ts : List Time) : Bool :=
  match ts with
  | [] => true
  | t :: rest => decide (last.toNat ≤ t.toNat) && ascending t rest

/-- The counter's new reading, where the event is one. -/
def Event.reading (e : Event) : Option Time :=
  match e with
  | .clock now => some now
  | .rtcWrite _ _ => none
  | .extTime _ _ _ => none
  | .silent _ => none
  | .request _ => none
  | .teardown => none
  | .reset => none

/-- The request that arrives, where the event is one. -/
def Event.arrival (e : Event) : Option Request :=
  match e with
  | .request r => some r
  | .rtcWrite _ _ => none
  | .clock _ => none
  | .extTime _ _ _ => none
  | .silent _ => none
  | .teardown => none
  | .reset => none

/-- The requests that arrive in these slots, in order. -/
def arrivals (slots : List (List Event)) : List Request := slots.flatten.filterMap Event.arrival

/-- The counter never goes back, now and in all that is to come (R23): `Millis()` answers its current value, so the
sequence of answers is non-decreasing. -/
abbrev State.Rising (s : State) : Prop :=
  ascending s.env.clock (s.env.script.flatten.filterMap Event.reading) = true

/-- The state a fault leaves. -/
def Fault.left (f : Fault) : State :=
  match f with
  | .outOfRangeEncode s => s
  | .stuck _ s => s

/-- What `Millis()` answered, where the call is one. -/
def Call.time (x : Call) : Option Time :=
  match x with
  | .millis t => some t
  | .extHours _ => none
  | .extMinutes _ => none
  | .extSeconds _ => none
  | .regRead _ _ => none
  | .regWrite _ _ => none

/-- The time a command presents to the gate by itself: the operand of ADMIT (R80). -/
def operandTimes (i : Instr) : List Time :=
  match i with
  | .admitAt t => [t]
  | .decode _ => []
  | .encode _ => []
  | .incHour _ => []
  | .incMinute _ _ => []
  | .normalize _ => []
  | .applyExternalTime _ _ _ => []
  | .onHourButton => []
  | .onMinuteButton => []
  | .onExternalSync => []
  | .tick => []

/-- The answers of `Millis()` that an operation took, in order, up to its end or the fault it met. -/
def answeredTimes (o : Host.Outcome State Fault Refusal) : List Time :=
  match o with
  | .next t => t.calls.filterMap Call.time
  | .fault f => f.left.calls.filterMap Call.time
  | .refused _ => []

/-- The times an operation presents to the gate, by a command or by `Millis()`, in order (R83). -/
def presentedBy (i : Instr) (s : State) : List Time := operandTimes i ++ answeredTimes (exec i s)

/-- The times the step from `s` presents to the gate. -/
def State.presented (s : State) : List Time :=
  if s.arrive.stopped then []
  else
    match s.arrive.next? with
    | none => []
    | some r =>
      match decodeCommand r.toCommand with
      | .ok i => presentedBy i s.arrive.take
      | .error _ => []

/-- The next `n` steps present no time before the one presented last: the stored time is that of the previous ADMIT,
or 0 after reset (R11, R83). -/
def State.MonoFor (n : Nat) (s : State) : Prop :=
  match n with
  | 0 => True
  | k + 1 => ascending s.arrive.lastAccepted s.presented = true ∧ ∀ t, step s = .next t → t.MonoFor k

/-- P-MONO (R83, R154), for the whole run from `s`: the counter never goes back, and every time presented to ADMIT, by a
command or by `Millis()`, is at least that of the previous ADMIT. Non-decreasing 32-bit readings have not wrapped. -/
abbrev State.Mono (s : State) : Prop := s.Rising ∧ ∀ n, s.MonoFor n

/-- No ADMIT command waits or is to come, so that every time comes from the counter. -/
abbrev State.TimedByCounter (s : State) : Prop :=
  ∀ r ∈ s.waiting ++ arrivals s.env.script, r.toCommand.op ≠ 0x2#4

/-- The counter is at or past the stored time, never goes back, and is the only source of time; operations run one at a
time. -/
abbrev State.Steady (s : State) : Prop :=
  s.params.atomicOps = true ∧ s.lastAccepted.toNat ≤ s.env.clock.toNat ∧ s.Rising ∧ s.TimedByCounter

/-- P-QUIET (R39, R154): only the block writes the registers. -/
abbrev State.Quiet (s : State) : Prop := s.params.envRtcWrites = false

/-- A byte that stands for a value from 0 to `hi`. -/
def holds (b : Byte) (hi : Nat) : Bool := isBcd b && decide ((bcdValue b).toNat ≤ hi)

/-- P-REG (R152): the hour register decodes to 0 to 23, the minute register to 0 to 59, the seconds register, with
bit 7 removed, to 0 to 59. -/
abbrev State.RegsLegal (s : State) : Prop :=
  holds (s.reg s.params.aHour) Config.hourMax = true ∧
  holds (s.reg s.params.aMin) Config.minMax = true ∧
  holds (s.reg s.params.aSec &&& Config.markerStrip) Config.secMax = true

/-- The seconds register carries the marker (R107). -/
abbrev State.Marked (s : State) : Prop := s.reg s.params.aSec &&& Config.markerMask = Config.markerMask

/-- A request whose minute and second operands, where it hands any to APPLY_EXTERNAL_TIME, are at most 59. -/
def Request.inRange (r : Request) : Bool :=
  match decodeCommand r.toCommand with
  | .ok (.applyExternalTime _ m s) => decide (m.toNat ≤ Config.minMax) && decide (s.toNat ≤ Config.secMax)
  | _ => true

/-- An event that hands the block only minutes and seconds that are at most 59. -/
def Event.inRange (e : Event) : Bool :=
  match e with
  | .extTime _ m s => decide (m.toNat ≤ Config.minMax) && decide (s.toNat ≤ Config.secMax)
  | .request r => r.inRange
  | _ => true

/-- P-EXT (R106, R154): every external minute and second is at most 59, now and in all that is to come. -/
abbrev State.ExtInRange (s : State) : Prop :=
  s.env.extMinutes.toNat ≤ Config.minMax ∧ s.env.extSeconds.toNat ≤ Config.secMax ∧
  (∀ r ∈ s.waiting, r.inRange = true) ∧ ∀ slot ∈ s.env.script, ∀ e ∈ slot, e.inRange = true

/-- A request with an op code that is not reserved (P-OPS, R59, R154). -/
def Request.defined (r : Request) : Bool := r.toCommand.opDefined

/-- P-OPS for all that waits and all that is to come (R154). -/
abbrev State.OpsDefined (s : State) : Prop :=
  (∀ r ∈ s.waiting, r.defined = true) ∧
  ∀ slot ∈ s.env.script, ∀ r, Event.request r ∈ slot → r.defined = true

/-- The register store is in its canonical form. -/
abbrev State.StoreWf (s : State) : Prop := Memory.wf s.mem = true

/-- No event of the script resets the block. -/
abbrev State.NoReset (s : State) : Prop := ∀ slot ∈ s.env.script, Event.reset ∉ slot

/-- No event of the script tears the block down or resets it. -/
abbrev State.NoAbandon (s : State) : Prop := ∀ slot ∈ s.env.script, slot.any Event.abandons = false

/-- No event of the script silences a collaborator (P-ANSWER for all that is to come). -/
abbrev State.NoSilence (s : State) : Prop := ∀ slot ∈ s.env.script, ∀ who, Event.silent who ∉ slot

/-- Times each more than 200 ms after the one before, the first after `last` (R113). -/
def spaced (last : Time) (ts : List Time) : Prop :=
  match ts with
  | [] => True
  | t :: rest => (elapsed t last).toNat > 200 ∧ spaced t rest

/-- Times each at most 200 ms after the one before, the first after `last` (R84 a). -/
def crowded (last : Time) (ts : List Time) : Prop :=
  match ts with
  | [] => True
  | t :: rest => (elapsed t last).toNat ≤ 200 ∧ crowded t rest

/-- The `flag` results of ADMIT commands with these times, run one after the other. -/
def admitFlags (s : State) (ts : List Time) : List (Option Bit) :=
  match ts with
  | [] => []
  | t :: rest =>
    match exec (.admitAt t) s with
    | .next u => u.out.flag :: admitFlags u rest
    | _ => []

/-- ON_MINUTE_BUTTON invoked at each of these readings of the millisecond counter, one after the other. -/
def pressMinute (s : State) (ts : List Time) : Option State :=
  match ts with
  | [] => some s
  | t :: rest =>
    match exec .onMinuteButton (s.setClock t) with
    | .next u => pressMinute u rest
    | _ => none

/-- The minute of the day the hour and minute registers stand for. -/
def State.minuteOfDay (s : State) : Nat :=
  60 * (bcdValue (s.reg s.params.aHour)).toNat + (bcdValue (s.reg s.params.aMin)).toNat

end Sys2Proof.Machine
end

