-- ==== Sys2Proof/Certificates/Slice0/Obligations.lean ====
section
/-! DEFINITION. Statements for the provers. Expected values are written here from the rules' own arithmetic
(`Claims`), not through the functions the meanings use. -/

namespace Sys2Proof.Claims

open Sys2Proof Sys2Proof.Machine

/-- A BCD byte (R52 b): "both nibbles at most 9". -/
abbrev Packed (b : Byte) : Prop := b.toNat / 16 ≤ 9 ∧ b.toNat % 16 ≤ 9

/-- The integer a BCD byte stands for (R51). -/
def packedNat (b : Byte) : Nat := 10 * (b.toNat / 16) + b.toNat % 16

/-- The byte that stands for an integer from 0 to 99 (R51). -/
def packedByte (v : Nat) : Byte := BitVec.ofNat 8 (16 * (v / 10) + v % 10)

/-- The integer DECODE answers for a byte when `n` free values have been drawn (R70, R71). -/
def valueOf (b : Byte) (n : Nat) : Nat := if Packed b then packedNat b else (Config.freeByte n).toNat

/-- How many free values have been drawn after that. -/
def drawsAfter (b : Byte) (n : Nat) : Nat := if Packed b then n else n + 1

/-- The hour after `h` (R90). -/
def hourAfter (h : Nat) : Nat := if h + 1 > 23 then 0 else h + 1

/-- The hour NORMALIZE answers (R100). -/
def displayHour (h : Nat) : Nat := if h ≥ 24 then 0 else if h > 12 then h - 12 else h

/-- The three trigger entry points (R135). -/
def triggerInstrs : List Instr := [.onHourButton, .onMinuteButton, .onExternalSync]

/-- The addresses an operation may write (R17 to R19). -/
def storesTo (i : Instr) (p : Config.Params) : List Addr :=
  match i with
  | .applyExternalTime _ _ _ => [p.aHour, p.aMin, p.aSec]
  | .onExternalSync => [p.aHour, p.aMin, p.aSec]
  | .onMinuteButton => [p.aMin, p.aHour]
  | .onHourButton => [p.aHour]
  | .decode _ => []
  | .encode _ => []
  | .admitAt _ => []
  | .incHour _ => []
  | .incMinute _ _ => []
  | .normalize _ => []
  | .tick => []

/-- The op code selects the operation, with its operands from the ports its row lists, whatever the others hold
(R55, R56). -/
abbrev Selects (op : OpCode) (operation : Command → Instr) : Prop :=
  ∀ x : Command, x.op = op → decodeCommand x = .ok (operation x)

/-- A result on `r0` alone. -/
def onlyR0 (v : Nat) : Results := { r0 := some (BitVec.ofNat 8 v), r1 := none, r2 := none, flag := none, led := none }

/-- No result. -/
def noResult : Results := { r0 := none, r1 := none, r2 := none, flag := none, led := none }

end Sys2Proof.Claims

open Sys2Proof Sys2Proof.Machine Sys2Proof.Claims

/-! ### Encoding -/

/-- R55, R56, R58: a command port and an operation say the same thing. A command decodes to an operation exactly when, its
unlisted ports set to zero, it is the operation's encoding; so decoding an encoding gives the operation back with every
operand, and a value on an unlisted port changes nothing. -/
def Obligations.CommandPortsDecodeAndEncodeAgree : Prop :=
  (∀ (x : Command) (i : Instr), decodeCommand x = .ok i ↔ x.canon = encodeCommand i) ∧
  (∀ i : Instr, decodeCommand (encodeCommand i) = .ok i ∧ (encodeCommand i).wf = true)

/-- R59, R133: a command decodes to no operation exactly when its op code is 0xB to 0xF, and the step that would run it
is refused by name. -/
def Obligations.ReservedOpCodesAreRefused : Prop :=
  (∀ x : Command, decodeCommand x = .error x.op ↔ 11 ≤ x.op.toNat) ∧
  (∀ (s : State) (r : Request), s.arrive.stopped = false → s.arrive.next? = some r → 11 ≤ r.toCommand.op.toNat →
    step s = .refused (.reservedOp r.toCommand.op))

/-- R55: words of the table written out bit by bit. -/
def Obligations.WrittenOutOpCodesDecode : Prop :=
  decodeTableWord 8 0b0000 = some (.decode 0) ∧ decodeTableWord 8 0b0010 = some (.admitAt 0) ∧
  decodeTableWord 8 0b0011 = some (.incHour 0) ∧ decodeTableWord 8 0b0101 = some (.normalize 0) ∧
  decodeTableWord 8 0b0110 = some (.applyExternalTime 0 0 0) ∧ decodeTableWord 8 0b1000 = some .onMinuteButton ∧
  decodeTableWord 8 0b1010 = some .tick ∧
  decodeCommand { op := 0b0100#4, a := 59#8, b := 23#8, c := 7#8, t := 9#32 } = .ok (.incMinute 59 23)

/-- R62: the text form of an operation reads back as the operation, and the source's names are accepted as aliases. -/
def Obligations.TextFormReadsBack : Prop :=
  (∀ i : Instr, i.text.wf = true ∧ i.text.parse = some i) ∧
  ∀ (i : Instr) (r : TextRow), r ∈ textRows → r.mnemonic = i.mnemonic →
    TextCommand.parse { name := r.source, operands := i.operands } = some i

/-! ### Steps and requests -/

/-- R15, R38, R142: a step delivers what the environment does between two operations, then runs the chosen request to its
end; with nothing waiting, or torn down, it runs nothing. R135, R139: each event source is tied to its entry point,
which gets no operand. -/
def Obligations.StepRunsTheChosenRequest : Prop :=
  (∀ s : State,
    (s.arrive.stopped = true → step s = .next s.arrive) ∧
    (s.arrive.stopped = false → s.arrive.next? = none → step s = .next s.arrive) ∧
    (∀ (r : Request) (i : Instr), s.arrive.stopped = false → s.arrive.next? = some r → decodeCommand r.toCommand = .ok i →
      step s = exec i s.arrive.take)) ∧
  decodeCommand (Request.trigger .hourButton).toCommand = .ok .onHourButton ∧
  decodeCommand (Request.trigger .minuteButton).toCommand = .ok .onMinuteButton ∧
  decodeCommand (Request.trigger .externalSync).toCommand = .ok .onExternalSync ∧
  decodeCommand Request.tick.toCommand = .ok .tick

/-- A command placed on the port is what the next step runs, on the state as it was (log entry 18). -/
def Obligations.PresentedCommandRunsNext : Prop :=
  ∀ (s : State) (x : Command) (i : Instr), decodeCommand x = .ok i →
    step (s.present x) = exec i { s with stopped := false }

/-- R138: of several waiting requests any one can be the next to run, and the others wait on in their order. -/
def Obligations.AnyWaitingRequestCanRunNext : Prop :=
  ∀ (s : State) (k : Nat) (r : Request) (i : Instr),
    s.env.script = [] → s.stopped = false → s.env.choices = [k] → s.waiting[k]? = some r →
    decodeCommand r.toCommand = .ok i →
    step s = exec i { s with waiting := s.waiting.take k ++ s.waiting.drop (k + 1), env := { s.env with choices := [] } }

/-- R137: unless the block is reset, an operation drops no request that waits; and with operations one at a time it drops
and merges none that arrives while it runs: after it there wait the ones that waited before and, behind them in order,
every one that the slots of the script it used up brought. -/
def Obligations.OperationsDropNoWaitingRequest : Prop :=
  ∀ (i : Instr) (s t : State), s.NoReset → exec i s = .next t →
    s.waiting <+: t.waiting ∧
    (s.params.atomicOps = true → ∃ used : Nat, t.env.script = s.env.script.drop used ∧
      t.waiting = s.waiting ++ arrivals (s.env.script.take used))

/-! ### The codec -/

/-- R70: op code 0x0 is DECODE of port `a`; DECODE of a BCD byte answers ten times its tens plus its ones on `r0`, bit 7
part of the tens, and changes nothing else. -/
def Obligations.DecodeOfBcdByte : Prop :=
  Selects 0x0#4 (fun x => .decode x.a) ∧
  ∀ (s : State) (a : Byte), Packed a →
    exec (.decode a) s = .next { s with out := onlyR0 (10 * (a.toNat / 16) + a.toNat % 16), calls := [] }

/-- R71: DECODE of a non-BCD byte completes with some value, which nothing fixes: the free value `Config.freeByte s.draws`;
the count that makes the next one fresh is the model's own (log entry 5). -/
def Obligations.DecodeOfNonBcdByteIsFree : Prop :=
  ∀ (s : State) (a : Byte), ¬ Packed a →
    exec (.decode a) s =
      .next { s with out := onlyR0 (Config.freeByte s.draws).toNat, calls := [], draws := s.draws + 1 }

/-- R72: op code 0x1 is ENCODE of port `a`; ENCODE of an integer from 0 to 99 answers its two decimal digits, one a
nibble, which is a BCD byte, and changes nothing else. -/
def Obligations.EncodeOfIntegerUpTo99 : Prop :=
  Selects 0x1#4 (fun x => .encode x.a) ∧
  (∀ a : Byte, a.toNat ≤ 99 → Packed (BitVec.ofNat 8 (16 * (a.toNat / 10) + a.toNat % 10))) ∧
  ∀ (s : State) (a : Byte), a.toNat ≤ 99 →
    exec (.encode a) s = .next { s with out := onlyR0 (16 * (a.toNat / 10) + a.toNat % 10), calls := [] }

/-- R73: ENCODE of an integer above 99 is the model outcome `fault OutOfRangeEncode`, with nothing else changed. -/
def Obligations.EncodeAbove99IsAFault : Prop :=
  ∀ (s : State) (a : Byte), 100 ≤ a.toNat →
    exec (.encode a) s = .fault (.outOfRangeEncode { s with out := noResult, calls := [] })

/-- R74 with R71 and R73: the round-trip laws, the converse and the bijection being the spec's own inferences, through the two operations: decoding what ENCODE answered gives the integer back; encoding
what DECODE answered gives a BCD byte back; so ENCODE is one-to-one from 0 to 99 onto the BCD bytes; and neither law
extends to non-BCD bytes or integers above 99, where DECODE's answer is a free value, in the model's form of it (log
entry 5), and ENCODE faults (log entry 6). -/
def Obligations.CodecRoundTrips : Prop :=
  (∀ (s : State) (x : Byte), x.toNat ≤ 99 → ∃ t u b, exec (.encode x) s = .next t ∧ t.out.r0 = some b ∧ Packed b ∧
    exec (.decode b) t = .next u ∧ u.out.r0 = some x) ∧
  (∀ (s : State) (b : Byte), Packed b → ∃ t u x, exec (.decode b) s = .next t ∧ t.out.r0 = some x ∧ x.toNat ≤ 99 ∧
    exec (.encode x) t = .next u ∧ u.out.r0 = some b) ∧
  (∀ (s : State) (x y : Byte) (t u : State), exec (.encode x) s = .next t → exec (.encode y) s = .next u →
    t.out.r0 = u.out.r0 → x = y) ∧
  (∀ (s : State) (x : Byte), (∃ t, exec (.encode x) s = .next t) ↔ x.toNat ≤ 99) ∧
  (∀ (s : State) (b : Byte), ¬ Packed b → ∃ t, exec (.decode b) s = .next t ∧ t.out.r0 = some (Config.freeByte s.draws))

/-! ### The debounce gate -/

/-- R80, R81: op code 0x2 is ADMIT of port `t`. ADMIT compares the 32-bit wrap-around difference, unsigned, with 200, strictly, and always moves the stored
time; where the time is not before the stored one the difference is the exact one. Nothing else changes. For a time before
the stored one, outside P-MONO, the flag rests on the wrap-around that the spec marks as its own choice (R81, D4; log
entry 19), on which U4 bases no claim. -/
def Obligations.AdmitComparesAndMovesTheWindow : Prop :=
  Selects 0x2#4 (fun x => .admitAt x.t) ∧
  ∀ (s : State) (t : Time), ∃ u : State,
    exec (.admitAt t) s = .next u ∧
    u = { s with
          lastAccepted := t
          calls := []
          out := { noResult with
                   flag := some (if (t.toNat + 2 ^ 32 - s.lastAccepted.toNat) % 2 ^ 32 > 200 then 1#1 else 0#1) } } ∧
    (s.lastAccepted.toNat ≤ t.toNat → (u.out.flag = some 1#1 ↔ t.toNat - s.lastAccepted.toNat > 200))

/-- R84 (a), R156: a burst in which each event comes at most 200 ms after the one before is suppressed to its end,
however long it lasts; and events each more than 200 ms after the one before are all accepted. -/
def Obligations.BurstsAreSuppressedWhole : Prop :=
  ∀ (s : State) (ts : List Time),
    (crowded s.lastAccepted ts → admitFlags s ts = ts.map fun _ => some 0#1) ∧
    (spaced s.lastAccepted ts → admitFlags s ts = ts.map fun _ => some 1#1)

/-- R84 (b), R155: after reset an event at 0 to 200 is suppressed and one at 201 or later is accepted. -/
def Obligations.DeadWindowAfterReset : Prop :=
  ∀ t : Time, ∃ u : State, exec (.admitAt t) State.reset = .next u ∧
    (u.out.flag = some 1#1 ↔ 201 ≤ t.toNat) ∧ (u.out.flag = some 0#1 ↔ t.toNat ≤ 200)

/-- R82: one gate for all sources: each trigger entry point moves the one stored time to its `Millis()` answer, exactly as
ADMIT with that time, and goes past the gate exactly when that ADMIT accepts: a suppressed one makes that one call. -/
def Obligations.TriggersShareOneGate : Prop :=
  ∀ (s t u : State) (i : Instr), i ∈ triggerInstrs → s.env.script = [] →
    exec i s = .next t → exec (.admitAt s.env.clock) s = .next u →
    t.lastAccepted = u.lastAccepted ∧ (u.out.flag = some 0#1 ↔ t.calls = [.millis s.env.clock])

/-! ### Incrementer and normaliser -/

/-- R90, R94: op code 0x3 is INC_HOUR of port `a`; INC_HOUR for every operand, the sum exact. -/
def Obligations.IncHourForEveryOperand : Prop :=
  Selects 0x3#4 (fun x => .incHour x.a) ∧
  ∀ (s : State) (a : Byte),
    exec (.incHour a) s = .next { s with out := onlyR0 (if a.toNat + 1 > 23 then 0 else a.toNat + 1), calls := [] }

/-- R91, R94: op code 0x4 is INC_MINUTE of ports `a` and `b`; INC_MINUTE for every pair of operands. -/
def Obligations.IncMinuteForEveryOperand : Prop :=
  Selects 0x4#4 (fun x => .incMinute x.a x.b) ∧
  ∀ (s : State) (a b : Byte),
    exec (.incMinute a b) s = .next { s with
      calls := []
      out := if a.toNat + 1 > 59
        then { r0 := some 0#8, r1 := some (BitVec.ofNat 8 (hourAfter b.toNat)), r2 := none, flag := some 1#1, led := none }
        else { r0 := some (BitVec.ofNat 8 (a.toNat + 1)), r1 := some b, r2 := none, flag := some 0#1, led := none } }

/-- R93, its (c) and (d) the spec's own inferences: (a) the hour law, (b) the minute law, (c) range closure, through the operations; (d) 24 hour increments and
60 minute increments, each on what the one before answered, come back, the hour then one further modulo 24. -/
def Obligations.IncrementLaws : Prop :=
  (∀ (s : State) (h : Byte), h.toNat ≤ 23 → ∃ t n, exec (.incHour h) s = .next t ∧ t.out.r0 = some n ∧
    n.toNat = (h.toNat + 1) % 24 ∧ n.toNat ≤ 23) ∧
  (∀ (s : State) (m h : Byte), m.toNat ≤ 59 → h.toNat ≤ 23 → ∃ t u m' h' n, exec (.incMinute m h) s = .next t ∧
    exec (.incHour h) s = .next u ∧ u.out.r0 = some n ∧ t.out.r0 = some m' ∧ t.out.r1 = some h' ∧
    (t.out.flag = some 1#1 ↔ m.toNat = 59) ∧ m'.toNat = (m.toNat + 1) % 60 ∧ (m.toNat = 59 → h' = n) ∧
    (m.toNat ≠ 59 → h' = h) ∧ m'.toNat ≤ 59 ∧ h'.toNat ≤ 23) ∧
  (∀ f : Byte → Byte, (∀ s h, ∃ t, exec (.incHour h) s = .next t ∧ t.out.r0 = some (f h)) →
    ∀ h : Byte, h.toNat ≤ 23 → f^[24] h = h) ∧
  (∀ f : Byte × Byte → Byte × Byte,
    (∀ s p, ∃ t, exec (.incMinute p.1 p.2) s = .next t ∧ t.out.r0 = some (f p).1 ∧ t.out.r1 = some (f p).2) →
    ∀ m h : Byte, m.toNat ≤ 59 → h.toNat ≤ 23 → f^[60] (m, h) = (m, BitVec.ofNat 8 ((h.toNat + 1) % 24)))

/-- R100: op code 0x5 is NORMALIZE of port `a`; its three cases in their order, the result in 0 to 12. -/
def Obligations.NormalizeForEveryOperand : Prop :=
  Selects 0x5#4 (fun x => .normalize x.a) ∧
  ∀ (s : State) (a : Byte), ∃ n : Nat,
    n = (if a.toNat ≥ 24 then 0 else if a.toNat > 12 then a.toNat - 12 else a.toNat) ∧ n ≤ 12 ∧
    exec (.normalize a) s = .next { s with out := onlyR0 n, calls := [] }

/-! ### The sync adapter -/

/-- R105, R106 (a): APPLY_EXTERNAL_TIME writes hour, minute and seconds in this order, the hour normalised, the seconds with
bit 7 set, whenever minute and second are at most 99, and changes nothing else. The seconds register then carries the
marker, and the three registers read as written. -/
def Obligations.ApplyExternalTimeWritesThreeRegisters : Prop :=
  ∀ (s : State) (a b c : Byte), s.env.script = [] → s.env.busAnswers = true → b.toNat ≤ 99 → c.toNat ≤ 99 →
    ∃ t : State, exec (.applyExternalTime a b c) s = .next t ∧
      t = { s with
            mem := Memory.write (Memory.write (Memory.write s.mem s.params.aHour.toNat (packedByte (displayHour a.toNat)))
              s.params.aMin.toNat (packedByte b.toNat)) s.params.aSec.toNat (packedByte c.toNat ||| 0x80#8)
            out := noResult
            calls := [.regWrite s.params.aHour (packedByte (displayHour a.toNat)),
              .regWrite s.params.aMin (packedByte b.toNat), .regWrite s.params.aSec (packedByte c.toNat ||| 0x80#8)] } ∧
      (s.StoreWf → s.params.Distinct →
        t.reg s.params.aHour = packedByte (displayHour a.toNat) ∧ t.reg s.params.aMin = packedByte b.toNat ∧
        t.reg s.params.aSec = packedByte c.toNat ||| 0x80#8) ∧
      (∀ x : Addr, x ≠ s.params.aHour → x ≠ s.params.aMin → x ≠ s.params.aSec → t.reg x = s.reg x)

/-- R106 (b): a minute above 99 faults with the hour register written and nothing more; a second above 99 (the minute
encodable) faults with hour and minute written and the seconds register not. -/
def Obligations.ApplyExternalTimeFaultsMidway : Prop :=
  ∀ (s : State) (a b c : Byte), s.env.script = [] → s.env.busAnswers = true →
    (100 ≤ b.toNat → exec (.applyExternalTime a b c) s = .fault (.outOfRangeEncode { s with
      mem := Memory.write s.mem s.params.aHour.toNat (packedByte (displayHour a.toNat))
      out := noResult
      calls := [.regWrite s.params.aHour (packedByte (displayHour a.toNat))] })) ∧
    (b.toNat ≤ 99 → 100 ≤ c.toNat → exec (.applyExternalTime a b c) s = .fault (.outOfRangeEncode { s with
      mem := Memory.write (Memory.write s.mem s.params.aHour.toNat (packedByte (displayHour a.toNat)))
        s.params.aMin.toNat (packedByte b.toNat)
      out := noResult
      calls := [.regWrite s.params.aHour (packedByte (displayHour a.toNat)),
        .regWrite s.params.aMin (packedByte b.toNat)] }))

/-! ### Entry points -/

/-- R115: a suppressed trigger event calls `Millis()` once, moves the stored time, and does nothing else: no register
access, no getter call, no result. -/
def Obligations.SuppressedTriggersOnlyMoveTheWindow : Prop :=
  ∀ (s : State) (i : Instr), i ∈ triggerInstrs → s.env.script = [] → s.env.clockAnswers = true →
    (s.env.clock - s.lastAccepted).toNat ≤ 200 →
    exec i s = .next { s with lastAccepted := s.env.clock, out := noResult, calls := [.millis s.env.clock] }

/-- R110: an accepted ON_HOUR_BUTTON reads the hour register and writes back the next hour; where the register holds a
non-BCD byte the hour is the next after a free value (log entry 5). -/
def Obligations.HourButtonAdvancesTheHour : Prop :=
  ∀ (s : State) (hb e : Byte), s.env.script = [] → s.env.clockAnswers = true → s.env.busAnswers = true →
    200 < (s.env.clock - s.lastAccepted).toNat → hb = s.reg s.params.aHour →
    e = packedByte (hourAfter (valueOf hb s.draws)) →
    exec .onHourButton s = .next { s with
      lastAccepted := s.env.clock
      mem := Memory.write s.mem s.params.aHour.toNat e
      draws := drawsAfter hb s.draws
      out := noResult
      calls := [.millis s.env.clock, .regRead s.params.aHour hb, .regWrite s.params.aHour e] }

/-- R112 without a carry: an accepted ON_MINUTE_BUTTON reads minute and hour and writes the minute alone. -/
def Obligations.MinuteButtonAdvancesTheMinute : Prop :=
  ∀ (s : State) (mb hb e : Byte), s.env.script = [] → s.env.clockAnswers = true → s.env.busAnswers = true →
    200 < (s.env.clock - s.lastAccepted).toNat → mb = s.reg s.params.aMin → hb = s.reg s.params.aHour →
    valueOf mb s.draws < 59 → e = packedByte (valueOf mb s.draws + 1) →
    exec .onMinuteButton s = .next { s with
      lastAccepted := s.env.clock
      mem := Memory.write s.mem s.params.aMin.toNat e
      draws := drawsAfter hb (drawsAfter mb s.draws)
      out := noResult
      calls := [.millis s.env.clock, .regRead s.params.aMin mb, .regRead s.params.aHour hb, .regWrite s.params.aMin e] }

/-- R112 with a carry: the minute becomes 0 and the hour is incremented once, in that order. -/
def Obligations.MinuteButtonCarriesIntoTheHour : Prop :=
  ∀ (s : State) (mb hb e : Byte), s.env.script = [] → s.env.clockAnswers = true → s.env.busAnswers = true →
    200 < (s.env.clock - s.lastAccepted).toNat → mb = s.reg s.params.aMin → hb = s.reg s.params.aHour →
    59 ≤ valueOf mb s.draws → e = packedByte (hourAfter (valueOf hb (drawsAfter mb s.draws))) →
    exec .onMinuteButton s = .next { s with
      lastAccepted := s.env.clock
      mem := Memory.write (Memory.write s.mem s.params.aMin.toNat 0x00#8) s.params.aHour.toNat e
      draws := drawsAfter hb (drawsAfter mb s.draws)
      out := noResult
      calls := [.millis s.env.clock, .regRead s.params.aMin mb, .regRead s.params.aHour hb,
        .regWrite s.params.aMin 0x00#8, .regWrite s.params.aHour e] }

/-- R114: an accepted ON_EXTERNAL_SYNC asks hours, minutes and seconds in this order and then writes as
APPLY_EXTERNAL_TIME does. -/
def Obligations.ExternalSyncImportsTheTime : Prop :=
  ∀ (s : State) (eh em es : Byte), s.env.script = [] → s.Answering →
    200 < (s.env.clock - s.lastAccepted).toNat → s.env.extMinutes.toNat ≤ 99 → s.env.extSeconds.toNat ≤ 99 →
    eh = packedByte (displayHour s.env.extHours.toNat) → em = packedByte s.env.extMinutes.toNat →
    es = packedByte s.env.extSeconds.toNat ||| 0x80#8 →
    exec .onExternalSync s = .next { s with
      lastAccepted := s.env.clock
      mem := Memory.write (Memory.write (Memory.write s.mem s.params.aHour.toNat eh) s.params.aMin.toNat em)
        s.params.aSec.toNat es
      out := noResult
      calls := [.millis s.env.clock, .extHours s.env.extHours, .extMinutes s.env.extMinutes,
        .extSeconds s.env.extSeconds, .regWrite s.params.aHour eh, .regWrite s.params.aMin em,
        .regWrite s.params.aSec es] }

/-- R114, R106 (b): an accepted ON_EXTERNAL_SYNC with an external minute above 99 faults at micro-step 7, the hour written;
with a second above 99 at micro-step 8, hour and minute written. -/
def Obligations.ExternalSyncFaultsMidway : Prop :=
  ∀ (s : State) (eh em : Byte), s.env.script = [] → s.Answering → 200 < (s.env.clock - s.lastAccepted).toNat →
    eh = packedByte (displayHour s.env.extHours.toNat) → em = packedByte s.env.extMinutes.toNat →
    (100 ≤ s.env.extMinutes.toNat → exec .onExternalSync s = .fault (.outOfRangeEncode { s with
      lastAccepted := s.env.clock
      mem := Memory.write s.mem s.params.aHour.toNat eh
      out := noResult
      calls := [.millis s.env.clock, .extHours s.env.extHours, .extMinutes s.env.extMinutes,
        .extSeconds s.env.extSeconds, .regWrite s.params.aHour eh] })) ∧
    (s.env.extMinutes.toNat ≤ 99 → 100 ≤ s.env.extSeconds.toNat → exec .onExternalSync s = .fault (.outOfRangeEncode { s with
      lastAccepted := s.env.clock
      mem := Memory.write (Memory.write s.mem s.params.aHour.toNat eh) s.params.aMin.toNat em
      out := noResult
      calls := [.millis s.env.clock, .extHours s.env.extHours, .extMinutes s.env.extMinutes,
        .extSeconds s.env.extSeconds, .regWrite s.params.aHour eh, .regWrite s.params.aMin em] }))

/-- R116: TICK inverts the indicator, reads hour, minute and seconds in this order, takes the marker off the seconds and
answers the three decoded values and the indicator; the register store and the gate are not touched. -/
def Obligations.TickShowsTheRegisters : Prop :=
  ∀ (s : State) (hb mb sb : Byte) (n1 n2 : Nat), s.env.script = [] → s.env.busAnswers = true →
    hb = s.reg s.params.aHour → mb = s.reg s.params.aMin → sb = s.reg s.params.aSec →
    n1 = drawsAfter hb s.draws → n2 = drawsAfter mb n1 →
    exec .tick s = .next { s with
      led := 1#1 - s.led
      draws := drawsAfter (sb &&& 0x7F#8) n2
      calls := [.regRead s.params.aHour hb, .regRead s.params.aMin mb, .regRead s.params.aSec sb]
      out := { r0 := some (BitVec.ofNat 8 (valueOf hb s.draws)), r1 := some (BitVec.ofNat 8 (valueOf mb n1)),
               r2 := some (BitVec.ofNat 8 (valueOf (sb &&& 0x7F#8) n2)), flag := none, led := some (1#1 - s.led) } }

/-- R113, which states the twelve and the eleven presses; that any number counts, modulo 1440, is inferred from R91, R93,
R112 and R156: minute presses each more than 200 ms after the one before are all counted: from legal registers, any number of
them advances the minute of the day by that number modulo 1440 and touches no other register; twelve of them take hour
0x20, minute 0x48 to hour 0x21, minute 0x00; and where the first of twelve comes at most 200 ms after the stored time
only eleven count, to hour 0x20, minute 0x59. -/
def Obligations.SpacedMinutePressesAreAllCounted : Prop :=
  ∀ (s : State) (ts : List Time), s.env.script = [] → s.env.clockAnswers = true → s.env.busAnswers = true →
    s.StoreWf → s.params.Distinct → s.RegsLegal →
    (spaced s.lastAccepted ts → ∃ t : State, pressMinute s ts = some t ∧ t.RegsLegal ∧
      t.minuteOfDay = (s.minuteOfDay + ts.length) % 1440 ∧
      (∀ x : Addr, x ≠ s.params.aHour → x ≠ s.params.aMin → t.reg x = s.reg x) ∧
      (ts.length = 12 → s.reg s.params.aHour = 0x20#8 → s.reg s.params.aMin = 0x48#8 →
        t.reg s.params.aHour = 0x21#8 ∧ t.reg s.params.aMin = 0x00#8)) ∧
    (∀ first : Time, (first - s.lastAccepted).toNat ≤ 200 → spaced first ts → ts.length = 11 →
      s.reg s.params.aHour = 0x20#8 → s.reg s.params.aMin = 0x48#8 →
      ∃ t : State, pressMinute s (first :: ts) = some t ∧
        t.reg s.params.aHour = 0x20#8 ∧ t.reg s.params.aMin = 0x59#8)

/-! ### The register store -/

/-- R33, R35: a read answers the byte last written there, a write leaves every other address alone, and a read changes
nothing but the record of calls. -/
def Obligations.RegistersReadAsLastWritten : Prop :=
  ∀ (s : State) (a b : Addr) (v : Byte), s.StoreWf → s.env.busAnswers = true →
    ∃ t u w : State, regWrite a v s = .go () t ∧ regRead a t = .go v u ∧ u = { t with calls := u.calls } ∧
      regRead a u = .go v w ∧ (a ≠ b → t.reg b = s.reg b)

/-- R17 to R19, R110 to R116: with P-QUIET and operations that run one at a time, an operation leaves every address of the
register store as it was but those its rule names, whatever else the environment does meanwhile. -/
def Obligations.OperationsWriteOnlyTheirRegisters : Prop :=
  ∀ (i : Instr) (s t : State), s.params.atomicOps = true → s.Quiet → exec i s = .next t →
    ∀ x : Addr, x ∉ storesTo i s.params → t.reg x = s.reg x

/-! ### Invariants and whole-machine rules -/

/-- Every step keeps the register store in its canonical form, whatever the environment does, in both interleavings
(model's own form, log entry 4). -/
def Obligations.StepKeepsTheStoreCanonical : Prop :=
  ∀ s t : State, s.StoreWf → step s = .next t → t.StoreWf

/-- The store is canonical at reset. -/
def Obligations.StoreIsCanonicalAtReset : Prop := State.reset.StoreWf

/-- R107: no step ever takes the marker off the seconds register, with P-QUIET. -/
def Obligations.StepKeepsTheSecondsMarker : Prop :=
  ∀ s t : State, s.StoreWf → s.params.Distinct → s.Quiet → s.Marked → step s = .next t → t.Marked

/-- R20, R152: the block preserves P-REG, with P-QUIET and P-EXT; and P-EXT, the canonical form and the configuration are
preserved with it. -/
def Obligations.StepKeepsTheRegistersLegal : Prop :=
  ∀ s t : State, s.StoreWf → s.params.Distinct → s.Quiet → s.ExtInRange → s.RegsLegal → step s = .next t →
    t.RegsLegal ∧ t.ExtInRange ∧ t.StoreWf ∧ t.params = s.params

/-- R24: no step changes the configuration. -/
def Obligations.StepNeverWritesTheConfiguration : Prop :=
  ∀ s t : State, step s = .next t → t.params = s.params

/-- R12: only TICK writes `S.led`, on every call, and then inverts it; unless the block is reset meanwhile. -/
def Obligations.OnlyTickWritesTheIndicator : Prop :=
  ∀ (i : Instr) (s t : State), s.NoReset → exec i s = .next t →
    (i = .tick → t.led = 1#1 - s.led) ∧ (i ≠ .tick → t.led = s.led)

/-- R11: only ADMIT and the trigger entry points write `S.last_accepted`, operations running one at a time and no reset
meanwhile. -/
def Obligations.OnlyTheGateWritesTheStoredTime : Prop :=
  ∀ (i : Instr) (s t : State), s.params.atomicOps = true → s.NoReset → exec i s = .next t →
    i ∉ triggerInstrs → (∀ now, i ≠ .admitAt now) → t.lastAccepted = s.lastAccepted

/-- R57: whatever the environment does, APPLY_EXTERNAL_TIME and the trigger entry points drive no result port, and TICK
drives its four together, the indicator's as it now stands, or none; and none only where the script tears the block
down or resets it, so that TICK is abandoned. -/
def Obligations.SequencedOperationsDriveOnlyTheirResults : Prop :=
  ∀ (i : Instr) (s t : State), exec i s = .next t →
    ((i ∈ triggerInstrs ∨ ∃ a b c, i = .applyExternalTime a b c) → t.out = noResult) ∧
    (i = .tick → t.out = noResult ∨
      ∃ h m sec, t.out = { r0 := some h, r1 := some m, r2 := some sec, flag := none, led := some t.led }) ∧
    (i = .tick → s.NoAbandon →
      ∃ h m sec, t.out = { r0 := some h, r1 := some m, r2 := some sec, flag := none, led := some t.led })

/-- R154 (P-ANSWER, P-EXT): with collaborators that answer and go on answering, and external minutes and seconds that
stay at most 59, every operation but ENCODE and APPLY_EXTERNAL_TIME of an integer above 99 completes, whatever else
the environment does and in both interleavings. -/
def Obligations.OperationsCompleteWhileAnswered : Prop :=
  ∀ (i : Instr) (s : State), s.Answering → s.NoSilence → s.ExtInRange →
    (∀ a, i = .encode a → a.toNat ≤ 99) → (∀ a b c, i = .applyExternalTime a b c → b.toNat ≤ 99 ∧ c.toNat ≤ 99) →
    ∃ t : State, exec i s = .next t

/-- R131, R133: operations running one at a time, only ENCODE, APPLY_EXTERNAL_TIME and ON_EXTERNAL_SYNC can meet
`fault OutOfRangeEncode`, and no operation is refused. -/
def Obligations.OnlyThreeOperationsCanFaultInEncode : Prop :=
  ∀ (i : Instr) (s : State),
    (∀ l, s.params.atomicOps = true → exec i s = .fault (.outOfRangeEncode l) →
      i = .onExternalSync ∨ (∃ a, i = .encode a ∧ 100 ≤ a.toNat) ∨
        ∃ a b c, i = .applyExternalTime a b c ∧ (100 ≤ b.toNat ∨ 100 ≤ c.toNat)) ∧
    ∀ r, exec i s ≠ .refused r

/-- R134: an operation is stuck at the first call whose collaborator never answers, with what came before it done: every
sequenced operation at its first call, an accepted trigger entry point at its first call after the gate, and an accepted
ON_EXTERNAL_SYNC whose time source answers at its first register write, the three getters called. -/
def Obligations.SilentCollaboratorsStopOperations : Prop :=
  ∀ (s : State), s.env.script = [] →
    (∀ i ∈ triggerInstrs, s.env.clockAnswers = false →
      exec i s = .fault (.stuck .clock { s with out := noResult, calls := [] })) ∧
    (s.env.busAnswers = false →
      exec .tick s = .fault (.stuck .bus { s with led := 1#1 - s.led, out := noResult, calls := [] })) ∧
    (∀ a b c, s.env.busAnswers = false →
      exec (.applyExternalTime a b c) s = .fault (.stuck .bus { s with out := noResult, calls := [] })) ∧
    (s.env.clockAnswers = true → 200 < (s.env.clock - s.lastAccepted).toNat →
      (s.env.extAnswers = false →
        exec .onExternalSync s = .fault (.stuck .timeSource
          { s with lastAccepted := s.env.clock, out := noResult, calls := [.millis s.env.clock] })) ∧
      (s.env.extAnswers = true → s.env.busAnswers = false →
        exec .onExternalSync s = .fault (.stuck .bus
          { s with
            lastAccepted := s.env.clock
            out := noResult
            calls := [.millis s.env.clock, .extHours s.env.extHours, .extMinutes s.env.extMinutes,
              .extSeconds s.env.extSeconds] })) ∧
      (s.env.busAnswers = false → ∀ i, i = .onHourButton ∨ i = .onMinuteButton →
        exec i s = .fault (.stuck .bus
          { s with lastAccepted := s.env.clock, out := noResult, calls := [.millis s.env.clock] })))

/-! ### Reset, teardown, and what the environment does between micro-steps -/

/-- R11, R12, R150, R151: the state right after reset, where the spec gives it. -/
def Obligations.ResetLeavesTheStatedValues : Prop :=
  State.reset.lastAccepted = 0#32 ∧ State.reset.led = 0#1 ∧ State.reset.waiting = [] ∧ State.reset.out = noResult ∧
  State.reset.calls = [] ∧ State.reset.stopped = false

/-- R150, R151: a reset event sets the two elements to 0, discards what waits, makes no collaborator call and leaves the
register store, the environment and the configuration; a step in which it is all that happens ends so. -/
def Obligations.ResetEventClearsTheBlock : Prop :=
  ∀ (s : State), s.env.script = [[.reset]] →
    step s = .next { s with lastAccepted := 0#32, led := 0#1, waiting := [], out := noResult, stopped := false,
                            env := { s.env with script := [] } }

/-- R142, R150: teardown or reset between two micro-steps abandons the operation there. APPLY_EXTERNAL_TIME abandoned after
its first write has written the hour and nothing else; after its second, hour and minute. Torn down, the block keeps its
two elements and what waits, and runs nothing; reset, it has the elements at 0 and nothing waiting. -/
def Obligations.TeardownFallsBetweenWrites : Prop :=
  ∀ (s one two : State) (a b c hb mb : Byte), s.env.busAnswers = true → b.toNat ≤ 99 →
    hb = packedByte (displayHour a.toNat) → mb = packedByte b.toNat →
    one = { s with
      mem := Memory.write s.mem s.params.aHour.toNat hb
      out := noResult
      calls := [.regWrite s.params.aHour hb]
      env := { s.env with script := [] } } →
    two = { one with
      mem := Memory.write one.mem s.params.aMin.toNat mb
      calls := [.regWrite s.params.aHour hb, .regWrite s.params.aMin mb] } →
    (s.env.script = [[.teardown]] → exec (.applyExternalTime a b c) s = .next { one with stopped := true }) ∧
    (s.env.script = [[], [.teardown]] → exec (.applyExternalTime a b c) s = .next { two with stopped := true }) ∧
    (s.env.script = [[.reset]] → exec (.applyExternalTime a b c) s =
      .next { one with lastAccepted := 0#32, led := 0#1, waiting := [], stopped := false }) ∧
    (s.env.script = [[], [.reset]] → exec (.applyExternalTime a b c) s =
      .next { two with lastAccepted := 0#32, led := 0#1, waiting := [], stopped := false }) ∧
    (s.stopped = true → s.env.script = [] → step s = .next s)

/-- R39, R158: when the RTC writes the hour register between an accepted ON_HOUR_BUTTON's read and its write, the RTC's
byte is lost: the register ends as if it had not been written; written just before the read, the same byte counts: the
register ends one hour after it. -/
def Obligations.RtcWriteInsideAPressIsLost : Prop :=
  ∀ (s : State) (v : Byte), s.Answering → s.params.atomicOps = true → s.params.envRtcWrites = true → s.StoreWf →
    200 < (s.env.clock - s.lastAccepted).toNat →
    (s.env.script = [[], [], [.rtcWrite .hour v]] → ∃ t : State, exec .onHourButton s = .next t ∧
      t.reg s.params.aHour = packedByte (hourAfter (valueOf (s.reg s.params.aHour) s.draws))) ∧
    (s.env.script = [[], [.rtcWrite .hour v]] → ∃ t : State, exec .onHourButton s = .next t ∧
      t.reg s.params.aHour = packedByte (hourAfter (valueOf v s.draws)))

/-- R164: when the external time changes between the getters, the imported triple mixes two moments: the hour of the one,
minute and second of the other. -/
def Obligations.ExternalTimeCanBeTorn : Prop :=
  ∀ (s : State) (h m sec : Byte), s.Answering → s.params.atomicOps = true → s.StoreWf → s.params.Distinct →
    s.env.script = [[], [], [.extTime h m sec]] → m.toNat ≤ 99 → sec.toNat ≤ 99 →
    200 < (s.env.clock - s.lastAccepted).toNat →
    ∃ t : State, exec .onExternalSync s = .next t ∧
      t.reg s.params.aHour = packedByte (displayHour s.env.extHours.toNat) ∧
      t.reg s.params.aMin = packedByte m.toNat ∧ t.reg s.params.aSec = packedByte sec.toNat ||| 0x80#8

/-- R165: when the RTC advances between TICK's reads the snapshot mixes two moments: the old hour with the new minute. -/
def Obligations.SnapshotCanBeTorn : Prop :=
  ∀ (s : State) (hb mb h m : Byte), s.env.busAnswers = true → s.params.atomicOps = true → s.params.envRtcWrites = true →
    s.StoreWf → s.params.Distinct → s.env.script = [[], [.rtcWrite .hour h, .rtcWrite .minute m]] →
    hb = s.reg s.params.aHour → Packed hb → mb = m → Packed m →
    ∃ t : State, exec .tick s = .next t ∧ t.out.r0 = some (BitVec.ofNat 8 (packedNat hb)) ∧
      t.out.r1 = some (BitVec.ofNat 8 (packedNat mb)) ∧ t.reg s.params.aHour = h

/-- R40 (a): in the legacy interleaving two accepted hour presses, the second inside the first between its read and its
write, advance the hour by one: one increment is lost. -/
def Obligations.LegacyInterleavingLosesAnUpdate : Prop :=
  ∀ (s : State) (now : Time), s.Answering → s.params.atomicOps = false → s.StoreWf →
    s.env.script = [[], [], [], [.clock now, .request (.trigger .hourButton)]] →
    200 < (s.env.clock - s.lastAccepted).toNat → 200 < (now - s.env.clock).toNat →
    Packed (s.reg s.params.aHour) →
    ∃ t : State, exec .onHourButton s = .next t ∧ t.lastAccepted = now ∧
      t.calls.countP (fun x => match x with | .regWrite _ _ => true | _ => false) = 2 ∧
      t.reg s.params.aHour = packedByte (hourAfter (packedNat (s.reg s.params.aHour)))

/-- R40 (c): in the legacy interleaving an ADMIT inside another, between its comparison and its write, compares with the
same stored time, so two presses at one moment are both accepted and the hour advances by two. -/
def Obligations.LegacyInterleavingAcceptsTwice : Prop :=
  ∀ (s : State), s.Answering → s.params.atomicOps = false → s.StoreWf →
    s.env.script = [[], [.request (.trigger .hourButton)]] →
    200 < (s.env.clock - s.lastAccepted).toNat → Packed (s.reg s.params.aHour) →
    ∃ t : State, exec .onHourButton s = .next t ∧ t.lastAccepted = s.env.clock ∧ t.waiting = s.waiting ∧
      t.reg s.params.aHour = packedByte (hourAfter (hourAfter (packedNat (s.reg s.params.aHour))))

/-! ### P-MONO -/

/-- R81, R83: under P-MONO the gate's difference is the exact one, at every step that the environment leaves alone: ADMIT
accepts exactly when more than 200 ms have passed since the stored time, and a trigger entry point that completes stops
at the gate exactly when at most 200 have. -/
def Obligations.MonotonicTimesUseTheExactDifference : Prop :=
  ∀ (s u : State) (r : Request) (i : Instr), s.Mono → s.env.script = [] → s.stopped = false → s.next? = some r →
    decodeCommand r.toCommand = .ok i → step s = .next u →
    (∀ t : Time, i = .admitAt t → s.lastAccepted.toNat ≤ t.toNat ∧
      (u.out.flag = some 1#1 ↔ 200 < t.toNat - s.lastAccepted.toNat)) ∧
    (i ∈ triggerInstrs → s.lastAccepted.toNat ≤ s.env.clock.toNat ∧
      (u.calls = [.millis s.env.clock] ↔ s.env.clock.toNat - s.lastAccepted.toNat ≤ 200))

/-- R11, R83: along a run that meets P-MONO, operations one at a time, the stored time never goes back unless the block is
reset, and the rest of the run meets P-MONO. -/
def Obligations.StoredTimeNeverGoesBack : Prop :=
  ∀ s t : State, s.Mono → s.params.atomicOps = true → s.NoReset → step s = .next t →
    s.lastAccepted.toNat ≤ t.lastAccepted.toNat ∧ t.Mono

/-- R23, R83: a counter that never goes back and that every time comes from is enough for P-MONO, operations running one
at a time: every step keeps these premises, whatever else the environment does, and the whole run meets P-MONO. -/
def Obligations.RisingCounterGivesMonotonicTimes : Prop :=
  ∀ s : State, s.Steady → (∀ t : State, step s = .next t → t.Steady) ∧ s.Mono
end

