-- ==== Sys2Proof/Laws/State.lean ====
section
/-! SUPPORT. What each named update of the state does to each field, and what it leaves to the register store's reader.
One lemma per field per update, all by unfolding the update once. -/

namespace Sys2Proof.Machine

section

variable (s : State)

/-! ### `State.store` -/

@[simp] theorem State.store_params (a : Addr) (v : Byte) : (s.store a v).params = s.params := rfl
@[simp] theorem State.store_lastAccepted (a : Addr) (v : Byte) : (s.store a v).lastAccepted = s.lastAccepted := rfl
@[simp] theorem State.store_led (a : Addr) (v : Byte) : (s.store a v).led = s.led := rfl
@[simp] theorem State.store_mem (a : Addr) (v : Byte) : (s.store a v).mem = Memory.write s.mem a.toNat v := rfl
@[simp] theorem State.store_out (a : Addr) (v : Byte) : (s.store a v).out = s.out := rfl
@[simp] theorem State.store_calls (a : Addr) (v : Byte) : (s.store a v).calls = s.calls := rfl
@[simp] theorem State.store_waiting (a : Addr) (v : Byte) : (s.store a v).waiting = s.waiting := rfl
@[simp] theorem State.store_stopped (a : Addr) (v : Byte) : (s.store a v).stopped = s.stopped := rfl
@[simp] theorem State.store_env (a : Addr) (v : Byte) : (s.store a v).env = s.env := rfl
@[simp] theorem State.store_draws (a : Addr) (v : Byte) : (s.store a v).draws = s.draws := rfl

/-! ### `State.log` -/

@[simp] theorem State.log_params (x : Call) : (s.log x).params = s.params := rfl
@[simp] theorem State.log_lastAccepted (x : Call) : (s.log x).lastAccepted = s.lastAccepted := rfl
@[simp] theorem State.log_led (x : Call) : (s.log x).led = s.led := rfl
@[simp] theorem State.log_mem (x : Call) : (s.log x).mem = s.mem := rfl
@[simp] theorem State.log_out (x : Call) : (s.log x).out = s.out := rfl
@[simp] theorem State.log_calls (x : Call) : (s.log x).calls = s.calls ++ [x] := rfl
@[simp] theorem State.log_waiting (x : Call) : (s.log x).waiting = s.waiting := rfl
@[simp] theorem State.log_stopped (x : Call) : (s.log x).stopped = s.stopped := rfl
@[simp] theorem State.log_env (x : Call) : (s.log x).env = s.env := rfl
@[simp] theorem State.log_draws (x : Call) : (s.log x).draws = s.draws := rfl
@[simp] theorem State.log_reg (x : Call) (k : Addr) : (s.log x).reg k = s.reg k := rfl

/-! ### `State.setLast` -/

@[simp] theorem State.setLast_params (t : Time) : (s.setLast t).params = s.params := rfl
@[simp] theorem State.setLast_lastAccepted (t : Time) : (s.setLast t).lastAccepted = t := rfl
@[simp] theorem State.setLast_led (t : Time) : (s.setLast t).led = s.led := rfl
@[simp] theorem State.setLast_mem (t : Time) : (s.setLast t).mem = s.mem := rfl
@[simp] theorem State.setLast_out (t : Time) : (s.setLast t).out = s.out := rfl
@[simp] theorem State.setLast_calls (t : Time) : (s.setLast t).calls = s.calls := rfl
@[simp] theorem State.setLast_waiting (t : Time) : (s.setLast t).waiting = s.waiting := rfl
@[simp] theorem State.setLast_stopped (t : Time) : (s.setLast t).stopped = s.stopped := rfl
@[simp] theorem State.setLast_env (t : Time) : (s.setLast t).env = s.env := rfl
@[simp] theorem State.setLast_draws (t : Time) : (s.setLast t).draws = s.draws := rfl
@[simp] theorem State.setLast_reg (t : Time) (k : Addr) : (s.setLast t).reg k = s.reg k := rfl

/-! ### `State.invertLed` -/

@[simp] theorem State.invertLed_params : (s.invertLed).params = s.params := rfl
@[simp] theorem State.invertLed_lastAccepted : (s.invertLed).lastAccepted = s.lastAccepted := rfl
@[simp] theorem State.invertLed_led : (s.invertLed).led = invertBit s.led := rfl
@[simp] theorem State.invertLed_mem : (s.invertLed).mem = s.mem := rfl
@[simp] theorem State.invertLed_out : (s.invertLed).out = s.out := rfl
@[simp] theorem State.invertLed_calls : (s.invertLed).calls = s.calls := rfl
@[simp] theorem State.invertLed_waiting : (s.invertLed).waiting = s.waiting := rfl
@[simp] theorem State.invertLed_stopped : (s.invertLed).stopped = s.stopped := rfl
@[simp] theorem State.invertLed_env : (s.invertLed).env = s.env := rfl
@[simp] theorem State.invertLed_draws : (s.invertLed).draws = s.draws := rfl
@[simp] theorem State.invertLed_reg (k : Addr) : (s.invertLed).reg k = s.reg k := rfl

/-! ### `State.drive` -/

@[simp] theorem State.drive_params (r : Results) : (s.drive r).params = s.params := rfl
@[simp] theorem State.drive_lastAccepted (r : Results) : (s.drive r).lastAccepted = s.lastAccepted := rfl
@[simp] theorem State.drive_led (r : Results) : (s.drive r).led = s.led := rfl
@[simp] theorem State.drive_mem (r : Results) : (s.drive r).mem = s.mem := rfl
@[simp] theorem State.drive_out (r : Results) : (s.drive r).out = r := rfl
@[simp] theorem State.drive_calls (r : Results) : (s.drive r).calls = s.calls := rfl
@[simp] theorem State.drive_waiting (r : Results) : (s.drive r).waiting = s.waiting := rfl
@[simp] theorem State.drive_stopped (r : Results) : (s.drive r).stopped = s.stopped := rfl
@[simp] theorem State.drive_env (r : Results) : (s.drive r).env = s.env := rfl
@[simp] theorem State.drive_draws (r : Results) : (s.drive r).draws = s.draws := rfl
@[simp] theorem State.drive_reg (r : Results) (k : Addr) : (s.drive r).reg k = s.reg k := rfl

/-! ### `State.draw` -/

@[simp] theorem State.draw_params : (s.draw).params = s.params := rfl
@[simp] theorem State.draw_lastAccepted : (s.draw).lastAccepted = s.lastAccepted := rfl
@[simp] theorem State.draw_led : (s.draw).led = s.led := rfl
@[simp] theorem State.draw_mem : (s.draw).mem = s.mem := rfl
@[simp] theorem State.draw_out : (s.draw).out = s.out := rfl
@[simp] theorem State.draw_calls : (s.draw).calls = s.calls := rfl
@[simp] theorem State.draw_waiting : (s.draw).waiting = s.waiting := rfl
@[simp] theorem State.draw_stopped : (s.draw).stopped = s.stopped := rfl
@[simp] theorem State.draw_env : (s.draw).env = s.env := rfl
@[simp] theorem State.draw_draws : (s.draw).draws = s.draws + 1 := rfl
@[simp] theorem State.draw_reg (k : Addr) : (s.draw).reg k = s.reg k := rfl

/-! ### `State.enqueue` -/

@[simp] theorem State.enqueue_params (r : Request) : (s.enqueue r).params = s.params := rfl
@[simp] theorem State.enqueue_lastAccepted (r : Request) : (s.enqueue r).lastAccepted = s.lastAccepted := rfl
@[simp] theorem State.enqueue_led (r : Request) : (s.enqueue r).led = s.led := rfl
@[simp] theorem State.enqueue_mem (r : Request) : (s.enqueue r).mem = s.mem := rfl
@[simp] theorem State.enqueue_out (r : Request) : (s.enqueue r).out = s.out := rfl
@[simp] theorem State.enqueue_calls (r : Request) : (s.enqueue r).calls = s.calls := rfl
@[simp] theorem State.enqueue_waiting (r : Request) : (s.enqueue r).waiting = s.waiting ++ [r] := rfl
@[simp] theorem State.enqueue_stopped (r : Request) : (s.enqueue r).stopped = s.stopped := rfl
@[simp] theorem State.enqueue_env (r : Request) : (s.enqueue r).env = s.env := rfl
@[simp] theorem State.enqueue_draws (r : Request) : (s.enqueue r).draws = s.draws := rfl
@[simp] theorem State.enqueue_reg (r : Request) (k : Addr) : (s.enqueue r).reg k = s.reg k := rfl

/-! ### `State.setWaiting` -/

@[simp] theorem State.setWaiting_params (w : List Request) : (s.setWaiting w).params = s.params := rfl
@[simp] theorem State.setWaiting_lastAccepted (w : List Request) : (s.setWaiting w).lastAccepted = s.lastAccepted := rfl
@[simp] theorem State.setWaiting_led (w : List Request) : (s.setWaiting w).led = s.led := rfl
@[simp] theorem State.setWaiting_mem (w : List Request) : (s.setWaiting w).mem = s.mem := rfl
@[simp] theorem State.setWaiting_out (w : List Request) : (s.setWaiting w).out = s.out := rfl
@[simp] theorem State.setWaiting_calls (w : List Request) : (s.setWaiting w).calls = s.calls := rfl
@[simp] theorem State.setWaiting_waiting (w : List Request) : (s.setWaiting w).waiting = w := rfl
@[simp] theorem State.setWaiting_stopped (w : List Request) : (s.setWaiting w).stopped = s.stopped := rfl
@[simp] theorem State.setWaiting_env (w : List Request) : (s.setWaiting w).env = s.env := rfl
@[simp] theorem State.setWaiting_draws (w : List Request) : (s.setWaiting w).draws = s.draws := rfl
@[simp] theorem State.setWaiting_reg (w : List Request) (k : Addr) : (s.setWaiting w).reg k = s.reg k := rfl

/-! ### `State.stop` -/

@[simp] theorem State.stop_params : (s.stop).params = s.params := rfl
@[simp] theorem State.stop_lastAccepted : (s.stop).lastAccepted = s.lastAccepted := rfl
@[simp] theorem State.stop_led : (s.stop).led = s.led := rfl
@[simp] theorem State.stop_mem : (s.stop).mem = s.mem := rfl
@[simp] theorem State.stop_out : (s.stop).out = s.out := rfl
@[simp] theorem State.stop_calls : (s.stop).calls = s.calls := rfl
@[simp] theorem State.stop_waiting : (s.stop).waiting = s.waiting := rfl
@[simp] theorem State.stop_stopped : (s.stop).stopped = true := rfl
@[simp] theorem State.stop_env : (s.stop).env = s.env := rfl
@[simp] theorem State.stop_draws : (s.stop).draws = s.draws := rfl
@[simp] theorem State.stop_reg (k : Addr) : (s.stop).reg k = s.reg k := rfl

/-! ### `State.blockReset` -/

@[simp] theorem State.blockReset_params : (s.blockReset).params = s.params := rfl
@[simp] theorem State.blockReset_lastAccepted : (s.blockReset).lastAccepted = 0#32 := rfl
@[simp] theorem State.blockReset_led : (s.blockReset).led = 0#1 := rfl
@[simp] theorem State.blockReset_mem : (s.blockReset).mem = s.mem := rfl
@[simp] theorem State.blockReset_out : (s.blockReset).out = Results.undriven := rfl
@[simp] theorem State.blockReset_calls : (s.blockReset).calls = s.calls := rfl
@[simp] theorem State.blockReset_waiting : (s.blockReset).waiting = [] := rfl
@[simp] theorem State.blockReset_stopped : (s.blockReset).stopped = false := rfl
@[simp] theorem State.blockReset_env : (s.blockReset).env = s.env := rfl
@[simp] theorem State.blockReset_draws : (s.blockReset).draws = s.draws := rfl
@[simp] theorem State.blockReset_reg (k : Addr) : (s.blockReset).reg k = s.reg k := rfl

/-! ### `State.enter` -/

@[simp] theorem State.enter_params : (s.enter).params = s.params := rfl
@[simp] theorem State.enter_lastAccepted : (s.enter).lastAccepted = s.lastAccepted := rfl
@[simp] theorem State.enter_led : (s.enter).led = s.led := rfl
@[simp] theorem State.enter_mem : (s.enter).mem = s.mem := rfl
@[simp] theorem State.enter_out : (s.enter).out = Results.undriven := rfl
@[simp] theorem State.enter_calls : (s.enter).calls = [] := rfl
@[simp] theorem State.enter_waiting : (s.enter).waiting = s.waiting := rfl
@[simp] theorem State.enter_stopped : (s.enter).stopped = s.stopped := rfl
@[simp] theorem State.enter_env : (s.enter).env = s.env := rfl
@[simp] theorem State.enter_draws : (s.enter).draws = s.draws := rfl
@[simp] theorem State.enter_reg (k : Addr) : (s.enter).reg k = s.reg k := rfl

/-! ### `State.setScript` -/

@[simp] theorem State.setScript_params (sc : List (List Event)) : (s.setScript sc).params = s.params := rfl
@[simp] theorem State.setScript_lastAccepted (sc : List (List Event)) : (s.setScript sc).lastAccepted = s.lastAccepted := rfl
@[simp] theorem State.setScript_led (sc : List (List Event)) : (s.setScript sc).led = s.led := rfl
@[simp] theorem State.setScript_mem (sc : List (List Event)) : (s.setScript sc).mem = s.mem := rfl
@[simp] theorem State.setScript_out (sc : List (List Event)) : (s.setScript sc).out = s.out := rfl
@[simp] theorem State.setScript_calls (sc : List (List Event)) : (s.setScript sc).calls = s.calls := rfl
@[simp] theorem State.setScript_waiting (sc : List (List Event)) : (s.setScript sc).waiting = s.waiting := rfl
@[simp] theorem State.setScript_stopped (sc : List (List Event)) : (s.setScript sc).stopped = s.stopped := rfl
@[simp] theorem State.setScript_draws (sc : List (List Event)) : (s.setScript sc).draws = s.draws := rfl
@[simp] theorem State.setScript_env_clock (sc : List (List Event)) : (s.setScript sc).env.clock = s.env.clock := rfl
@[simp] theorem State.setScript_env_extHours (sc : List (List Event)) : (s.setScript sc).env.extHours = s.env.extHours := rfl
@[simp] theorem State.setScript_env_extMinutes (sc : List (List Event)) : (s.setScript sc).env.extMinutes = s.env.extMinutes := rfl
@[simp] theorem State.setScript_env_extSeconds (sc : List (List Event)) : (s.setScript sc).env.extSeconds = s.env.extSeconds := rfl
@[simp] theorem State.setScript_env_clockAnswers (sc : List (List Event)) : (s.setScript sc).env.clockAnswers = s.env.clockAnswers := rfl
@[simp] theorem State.setScript_env_busAnswers (sc : List (List Event)) : (s.setScript sc).env.busAnswers = s.env.busAnswers := rfl
@[simp] theorem State.setScript_env_extAnswers (sc : List (List Event)) : (s.setScript sc).env.extAnswers = s.env.extAnswers := rfl
/-- Proved by `(rfl)`, so that simp rewrites with it under a premise about the script that is left. -/
@[simp] theorem State.setScript_env_script (sc : List (List Event)) : (s.setScript sc).env.script = sc := (rfl)
@[simp] theorem State.setScript_env_choices (sc : List (List Event)) : (s.setScript sc).env.choices = s.env.choices := rfl
@[simp] theorem State.setScript_reg (sc : List (List Event)) (k : Addr) : (s.setScript sc).reg k = s.reg k := rfl

/-! ### `State.setClock` -/

@[simp] theorem State.setClock_params (now : Time) : (s.setClock now).params = s.params := rfl
@[simp] theorem State.setClock_lastAccepted (now : Time) : (s.setClock now).lastAccepted = s.lastAccepted := rfl
@[simp] theorem State.setClock_led (now : Time) : (s.setClock now).led = s.led := rfl
@[simp] theorem State.setClock_mem (now : Time) : (s.setClock now).mem = s.mem := rfl
@[simp] theorem State.setClock_out (now : Time) : (s.setClock now).out = s.out := rfl
@[simp] theorem State.setClock_calls (now : Time) : (s.setClock now).calls = s.calls := rfl
@[simp] theorem State.setClock_waiting (now : Time) : (s.setClock now).waiting = s.waiting := rfl
@[simp] theorem State.setClock_stopped (now : Time) : (s.setClock now).stopped = s.stopped := rfl
@[simp] theorem State.setClock_draws (now : Time) : (s.setClock now).draws = s.draws := rfl
@[simp] theorem State.setClock_env_clock (now : Time) : (s.setClock now).env.clock = now := rfl
@[simp] theorem State.setClock_env_extHours (now : Time) : (s.setClock now).env.extHours = s.env.extHours := rfl
@[simp] theorem State.setClock_env_extMinutes (now : Time) : (s.setClock now).env.extMinutes = s.env.extMinutes := rfl
@[simp] theorem State.setClock_env_extSeconds (now : Time) : (s.setClock now).env.extSeconds = s.env.extSeconds := rfl
@[simp] theorem State.setClock_env_clockAnswers (now : Time) : (s.setClock now).env.clockAnswers = s.env.clockAnswers := rfl
@[simp] theorem State.setClock_env_busAnswers (now : Time) : (s.setClock now).env.busAnswers = s.env.busAnswers := rfl
@[simp] theorem State.setClock_env_extAnswers (now : Time) : (s.setClock now).env.extAnswers = s.env.extAnswers := rfl
@[simp] theorem State.setClock_env_script (now : Time) : (s.setClock now).env.script = s.env.script := rfl
@[simp] theorem State.setClock_env_choices (now : Time) : (s.setClock now).env.choices = s.env.choices := rfl
@[simp] theorem State.setClock_reg (now : Time) (k : Addr) : (s.setClock now).reg k = s.reg k := rfl

/-! ### `State.setExt` -/

@[simp] theorem State.setExt_params (h m sec : Byte) : (s.setExt h m sec).params = s.params := rfl
@[simp] theorem State.setExt_lastAccepted (h m sec : Byte) : (s.setExt h m sec).lastAccepted = s.lastAccepted := rfl
@[simp] theorem State.setExt_led (h m sec : Byte) : (s.setExt h m sec).led = s.led := rfl
@[simp] theorem State.setExt_mem (h m sec : Byte) : (s.setExt h m sec).mem = s.mem := rfl
@[simp] theorem State.setExt_out (h m sec : Byte) : (s.setExt h m sec).out = s.out := rfl
@[simp] theorem State.setExt_calls (h m sec : Byte) : (s.setExt h m sec).calls = s.calls := rfl
@[simp] theorem State.setExt_waiting (h m sec : Byte) : (s.setExt h m sec).waiting = s.waiting := rfl
@[simp] theorem State.setExt_stopped (h m sec : Byte) : (s.setExt h m sec).stopped = s.stopped := rfl
@[simp] theorem State.setExt_draws (h m sec : Byte) : (s.setExt h m sec).draws = s.draws := rfl
@[simp] theorem State.setExt_env_clock (h m sec : Byte) : (s.setExt h m sec).env.clock = s.env.clock := rfl
@[simp] theorem State.setExt_env_extHours (h m sec : Byte) : (s.setExt h m sec).env.extHours = h := rfl
@[simp] theorem State.setExt_env_extMinutes (h m sec : Byte) : (s.setExt h m sec).env.extMinutes = m := rfl
@[simp] theorem State.setExt_env_extSeconds (h m sec : Byte) : (s.setExt h m sec).env.extSeconds = sec := rfl
@[simp] theorem State.setExt_env_clockAnswers (h m sec : Byte) : (s.setExt h m sec).env.clockAnswers = s.env.clockAnswers := rfl
@[simp] theorem State.setExt_env_busAnswers (h m sec : Byte) : (s.setExt h m sec).env.busAnswers = s.env.busAnswers := rfl
@[simp] theorem State.setExt_env_extAnswers (h m sec : Byte) : (s.setExt h m sec).env.extAnswers = s.env.extAnswers := rfl
@[simp] theorem State.setExt_env_script (h m sec : Byte) : (s.setExt h m sec).env.script = s.env.script := rfl
@[simp] theorem State.setExt_env_choices (h m sec : Byte) : (s.setExt h m sec).env.choices = s.env.choices := rfl
@[simp] theorem State.setExt_reg (h m sec : Byte) (k : Addr) : (s.setExt h m sec).reg k = s.reg k := rfl

/-! ### `State.silence` -/

@[simp] theorem State.silence_params (who : Collaborator) : (s.silence who).params = s.params := rfl
@[simp] theorem State.silence_lastAccepted (who : Collaborator) : (s.silence who).lastAccepted = s.lastAccepted := rfl
@[simp] theorem State.silence_led (who : Collaborator) : (s.silence who).led = s.led := rfl
@[simp] theorem State.silence_mem (who : Collaborator) : (s.silence who).mem = s.mem := rfl
@[simp] theorem State.silence_out (who : Collaborator) : (s.silence who).out = s.out := rfl
@[simp] theorem State.silence_calls (who : Collaborator) : (s.silence who).calls = s.calls := rfl
@[simp] theorem State.silence_waiting (who : Collaborator) : (s.silence who).waiting = s.waiting := rfl
@[simp] theorem State.silence_stopped (who : Collaborator) : (s.silence who).stopped = s.stopped := rfl
@[simp] theorem State.silence_draws (who : Collaborator) : (s.silence who).draws = s.draws := rfl
@[simp] theorem State.silence_env_clock (who : Collaborator) : (s.silence who).env.clock = s.env.clock := rfl
@[simp] theorem State.silence_env_extHours (who : Collaborator) : (s.silence who).env.extHours = s.env.extHours := rfl
@[simp] theorem State.silence_env_extMinutes (who : Collaborator) : (s.silence who).env.extMinutes = s.env.extMinutes := rfl
@[simp] theorem State.silence_env_extSeconds (who : Collaborator) : (s.silence who).env.extSeconds = s.env.extSeconds := rfl
@[simp] theorem State.silence_env_clockAnswers (who : Collaborator) : (s.silence who).env.clockAnswers = (s.env.clockAnswers && who != .clock) := rfl
@[simp] theorem State.silence_env_busAnswers (who : Collaborator) : (s.silence who).env.busAnswers = (s.env.busAnswers && who != .bus) := rfl
@[simp] theorem State.silence_env_extAnswers (who : Collaborator) : (s.silence who).env.extAnswers = (s.env.extAnswers && who != .timeSource) := rfl
@[simp] theorem State.silence_env_script (who : Collaborator) : (s.silence who).env.script = s.env.script := rfl
@[simp] theorem State.silence_env_choices (who : Collaborator) : (s.silence who).env.choices = s.env.choices := rfl
@[simp] theorem State.silence_reg (who : Collaborator) (k : Addr) : (s.silence who).reg k = s.reg k := rfl

/-! ### `State.useChoice` -/

@[simp] theorem State.useChoice_params : (s.useChoice).params = s.params := rfl
@[simp] theorem State.useChoice_lastAccepted : (s.useChoice).lastAccepted = s.lastAccepted := rfl
@[simp] theorem State.useChoice_led : (s.useChoice).led = s.led := rfl
@[simp] theorem State.useChoice_mem : (s.useChoice).mem = s.mem := rfl
@[simp] theorem State.useChoice_out : (s.useChoice).out = s.out := rfl
@[simp] theorem State.useChoice_calls : (s.useChoice).calls = s.calls := rfl
@[simp] theorem State.useChoice_waiting : (s.useChoice).waiting = s.waiting := rfl
@[simp] theorem State.useChoice_stopped : (s.useChoice).stopped = s.stopped := rfl
@[simp] theorem State.useChoice_draws : (s.useChoice).draws = s.draws := rfl
@[simp] theorem State.useChoice_env_clock : (s.useChoice).env.clock = s.env.clock := rfl
@[simp] theorem State.useChoice_env_extHours : (s.useChoice).env.extHours = s.env.extHours := rfl
@[simp] theorem State.useChoice_env_extMinutes : (s.useChoice).env.extMinutes = s.env.extMinutes := rfl
@[simp] theorem State.useChoice_env_extSeconds : (s.useChoice).env.extSeconds = s.env.extSeconds := rfl
@[simp] theorem State.useChoice_env_clockAnswers : (s.useChoice).env.clockAnswers = s.env.clockAnswers := rfl
@[simp] theorem State.useChoice_env_busAnswers : (s.useChoice).env.busAnswers = s.env.busAnswers := rfl
@[simp] theorem State.useChoice_env_extAnswers : (s.useChoice).env.extAnswers = s.env.extAnswers := rfl
@[simp] theorem State.useChoice_env_script : (s.useChoice).env.script = s.env.script := rfl
@[simp] theorem State.useChoice_env_choices : (s.useChoice).env.choices = s.env.choices.tail := rfl
@[simp] theorem State.useChoice_reg (k : Addr) : (s.useChoice).reg k = s.reg k := rfl

end

end Sys2Proof.Machine
end

