-- ==== Sys2Proof/Laws/Codec.lean ====
section
/-! SUPPORT. The value functions on bytes: codec, incrementer, normaliser (40_codec.md, 42_incrementer.md,
43_normalizer.md). -/

namespace Sys2Proof.Machine

/-- The digits of a byte that is written from digits (R51). -/
theorem toNat_bcdByte {v : Byte} (h : v.toNat ≤ 99) : (bcdByte v).toNat = 16 * (v.toNat / 10) + v.toNat % 10 := by
  simp only [bcdByte, BitVec.toNat_ofNat]
  exact Nat.mod_eq_of_lt (by omega)

theorem isBcd_iff (b : Byte) : isBcd b = true ↔ b.toNat / 16 ≤ 9 ∧ b.toNat % 16 ≤ 9 := by
  simp only [isBcd, Bool.and_eq_true, decide_eq_true_eq]
  rfl

theorem toNat_bcdValue {b : Byte} (h : isBcd b = true) :
    (bcdValue b).toNat = 10 * (b.toNat / 16) + b.toNat % 16 := by
  rw [isBcd_iff] at h
  simp only [bcdValue, tensOf, onesOf, BitVec.toNat_ofNat]
  exact Nat.mod_eq_of_lt (by omega)

theorem bcdByte_isBcd {v : Byte} (h : v.toNat ≤ 99) : isBcd (bcdByte v) = true := by
  rw [isBcd_iff, toNat_bcdByte h]
  omega

/-- A BCD byte stands for at most 99 (R70). -/
theorem bcdValue_le {b : Byte} (h : isBcd b = true) : (bcdValue b).toNat ≤ 99 := by
  rw [toNat_bcdValue h]
  rw [isBcd_iff] at h
  omega

/-- INC_HOUR answers an hour for every operand (R94). -/
theorem incHour_le (h : Byte) : (incHour h).toNat ≤ 23 := by
  unfold incHour Config.hourMax
  split
  · simp
  · simp only [BitVec.toNat_ofNat]; omega

/-- The minute of INC_MINUTE is a minute for every operand (R94). -/
theorem nextMinute_le (m : Byte) : (nextMinute m).toNat ≤ 59 := by
  unfold nextMinute carried Config.minMax
  split
  · simp
  · rename_i h
    simp only [decide_eq_true_eq] at h
    simp only [BitVec.toNat_ofNat]; omega

/-- The hour of INC_MINUTE is an hour when it carried (R94). -/
theorem nextHour_le {m : Byte} (h : Byte) (hc : carried m = true) : (nextHour m h).toNat ≤ 23 := by
  simpa [nextHour, hc] using incHour_le h

/-- NORMALIZE answers 0 to 12 for every operand (R100). -/
theorem normalizeHour_le (h : Byte) : (normalizeHour h).toNat ≤ 12 := by
  unfold normalizeHour Config.normZeroFrom Config.normSubAbove
  split
  · simp
  · split
    · simp only [BitVec.toNat_ofNat]; omega
    · omega

/-- ENCODE of an integer at most 99. -/
theorem encoded_of_le {v : Byte} (h : v.toNat ≤ 99) (s : State) : encoded v s = .go (bcdByte v) s := by
  simp [encoded, Config.encMax, h]

/-- ENCODE of an integer above 99 (R73). -/
theorem encoded_of_gt {v : Byte} (h : 99 < v.toNat) (s : State) : encoded v s = .fault (.outOfRangeEncode s) := by
  simp [encoded, Config.encMax, Nat.not_le.mpr h]

@[simp] theorem decodedValue_of_bcd {b : Byte} (h : isBcd b = true) (n : Nat) : decodedValue b n = bcdValue b := by
  simp [decodedValue, h]

@[simp] theorem decodedState_of_bcd {b : Byte} (h : isBcd b = true) (s : State) : decodedState b s = s := by
  simp [decodedState, h]

/-- DECODE changes nothing but the count of free values. -/
theorem decodedState_cases (b : Byte) (s : State) : decodedState b s = s ∨ decodedState b s = s.draw := by
  unfold decodedState; split <;> simp

/-- An encode-and-store of an integer at most 99 with a bus that answers. -/
theorem storeEncoded_of_le {v : Byte} (h : v.toNat ≤ 99) (a : Addr) (mark : Byte) {s : State}
    (hb : s.env.busAnswers = true) :
    storeEncoded a v mark s =
      .go () ((s.store a (bcdByte v ||| mark)).log (.regWrite a (bcdByte v ||| mark))) := by
  simp [storeEncoded, encoded_of_le h, Run.andThen, regWrite, hb]

theorem storeEncoded_of_gt {v : Byte} (h : 99 < v.toNat) (a : Addr) (mark : Byte) (s : State) :
    storeEncoded a v mark s = .fault (.outOfRangeEncode s) := by
  simp [storeEncoded, encoded_of_gt h, Run.andThen]

end Sys2Proof.Machine
end

