-- ==== Sys2Proof/Laws/Memory.lean ====
section
/-! SUPPORT. The register store: a read after a write (20_memory.md rule R33), a write elsewhere, and the canonical
form, which every write keeps. -/

namespace Sys2Proof.Machine

theorem Memory.read_cell_append (a : Nat) (v : Byte) (m : Memory) (h : Memory.read m a = Config.unwritten) :
    Memory.read (Memory.cell a v ++ m) a = v := by
  unfold Memory.cell
  split
  · subst v; simpa using h
  · simp [Memory.read]

theorem Memory.read_cell_append_of_ne (a b : Nat) (v : Byte) (m : Memory) (h : a ≠ b) :
    Memory.read (Memory.cell a v ++ m) b = Memory.read m b := by
  unfold Memory.cell
  split
  · rfl
  · simp [Memory.read, h]

/-- Below its lower bound a store in canonical form lists nothing. -/
theorem Memory.read_below {lo a : Nat} {m : Memory} (hm : Memory.wfFrom lo m = true) (h : a < lo) :
    Memory.read m a = Config.unwritten := by
  induction m generalizing lo with
  | nil => rfl
  | cons c m ih =>
    obtain ⟨b, w⟩ := c
    simp only [Memory.wfFrom, Bool.and_eq_true, decide_eq_true_eq] at hm
    obtain ⟨⟨⟨hb, -⟩, -⟩, hrest⟩ := hm
    have hne : b ≠ a := by omega
    simp only [Memory.read, hne, if_false]
    exact ih hrest (by omega)

/-- A read of an address just written gives the byte written (R33), in a store in canonical form. -/
theorem Memory.read_write {lo : Nat} {m : Memory} (hm : Memory.wfFrom lo m = true) (a : Nat) (v : Byte) :
    Memory.read (Memory.write m a v) a = v := by
  induction m generalizing lo with
  | nil => simpa [Memory.write] using Memory.read_cell_append a v [] rfl
  | cons c m ih =>
    obtain ⟨b, w⟩ := c
    have hm' := hm
    simp only [Memory.wfFrom, Bool.and_eq_true, decide_eq_true_eq] at hm
    obtain ⟨⟨⟨hb, hb256⟩, hw⟩, hrest⟩ := hm
    simp only [Memory.write]
    split
    · rename_i hlt
      refine Memory.read_cell_append a v _ ?_
      have hne : b ≠ a := by omega
      simp only [Memory.read, hne, if_false]
      exact Memory.read_below hrest (by omega)
    · split
      · rename_i hge heq
        subst heq
        exact Memory.read_cell_append a v m (Memory.read_below hrest (by omega))
      · rename_i hge hne
        have hne' : b ≠ a := fun h => hne h.symm
        simp only [Memory.read, hne', if_false]
        exact ih hrest

/-- A write leaves every other address as it was. -/
theorem Memory.read_write_of_ne (m : Memory) {a b : Nat} (v : Byte) (h : a ≠ b) :
    Memory.read (Memory.write m a v) b = Memory.read m b := by
  induction m with
  | nil => simpa [Memory.write] using Memory.read_cell_append_of_ne a b v [] h
  | cons c m ih =>
    obtain ⟨b', w⟩ := c
    simp only [Memory.write]
    split
    · exact Memory.read_cell_append_of_ne a b v _ h
    · split
      · rename_i heq
        subst heq
        rw [Memory.read_cell_append_of_ne a b v m h]
        simp [Memory.read, h]
      · by_cases hb : b' = b <;> simp [Memory.read, hb, ih]

theorem Memory.wfFrom_mono {lo lo' : Nat} {m : Memory} (hm : Memory.wfFrom lo m = true) (h : lo' ≤ lo) :
    Memory.wfFrom lo' m = true := by
  cases m with
  | nil => rfl
  | cons c m =>
    obtain ⟨b, w⟩ := c
    simp only [Memory.wfFrom, Bool.and_eq_true, decide_eq_true_eq] at hm ⊢
    obtain ⟨⟨⟨hb, h256⟩, hw⟩, hrest⟩ := hm
    exact ⟨⟨⟨by omega, h256⟩, hw⟩, hrest⟩

theorem Memory.wfFrom_cell_append {lo a : Nat} {m : Memory} (v : Byte) (hlo : lo ≤ a) (ha : a < 256)
    (hm : Memory.wfFrom (a + 1) m = true) : Memory.wfFrom lo (Memory.cell a v ++ m) = true := by
  unfold Memory.cell
  split
  · exact Memory.wfFrom_mono hm (by omega)
  · rename_i hv
    simp [Memory.wfFrom, hlo, ha, hv, hm]

theorem Memory.wfFrom_write {lo a : Nat} {m : Memory} (v : Byte) (hlo : lo ≤ a) (ha : a < 256)
    (hm : Memory.wfFrom lo m = true) : Memory.wfFrom lo (Memory.write m a v) = true := by
  induction m generalizing lo with
  | nil => simpa [Memory.write] using Memory.wfFrom_cell_append (m := []) v hlo ha rfl
  | cons c m ih =>
    obtain ⟨b, w⟩ := c
    have hm' := hm
    simp only [Memory.wfFrom, Bool.and_eq_true, decide_eq_true_eq] at hm
    obtain ⟨⟨⟨hb, hb256⟩, hw⟩, hrest⟩ := hm
    simp only [Memory.write]
    split
    · rename_i hlt
      refine Memory.wfFrom_cell_append v hlo ha ?_
      simp only [Memory.wfFrom, Bool.and_eq_true, decide_eq_true_eq]
      exact ⟨⟨⟨by omega, hb256⟩, hw⟩, hrest⟩
    · split
      · rename_i hge heq
        subst heq
        exact Memory.wfFrom_cell_append v hlo ha hrest
      · simp only [Memory.wfFrom, Bool.and_eq_true, decide_eq_true_eq]
        exact ⟨⟨⟨hb, hb256⟩, hw⟩, ih (by omega) hrest⟩

/-- Every write keeps the canonical form. -/
theorem Memory.wf_write {m : Memory} (hm : Memory.wf m = true) {a : Nat} (ha : a < 256) (v : Byte) :
    Memory.wf (Memory.write m a v) = true :=
  Memory.wfFrom_write v (Nat.zero_le a) ha hm

@[simp] theorem Memory.wf_nil : Memory.wf [] = true := rfl

/-- The store at reset is in canonical form. -/
theorem State.reset_store_wf : Memory.wf State.reset.mem = true := rfl

/-- What a store of one byte leaves for the reader, at that address. -/
theorem State.store_reg_self (s : State) (h : Memory.wf s.mem = true) (a : Addr) (v : Byte) :
    (s.store a v).reg a = v := Memory.read_write h a.toNat v

/-- What a store of one byte leaves for the reader, at any other address. -/
theorem State.store_reg_of_ne (s : State) {a b : Addr} (v : Byte) (h : a ≠ b) : (s.store a v).reg b = s.reg b :=
  Memory.read_write_of_ne s.mem v fun e => h (BitVec.eq_of_toNat_eq e)

theorem State.store_wf (s : State) (h : Memory.wf s.mem = true) (a : Addr) (v : Byte) :
    Memory.wf (s.store a v).mem = true := Memory.wf_write h a.isLt v

end Sys2Proof.Machine
end

