-- ==== Sys2Proof/Laws/Run.lean ====
section
/-! SUPPORT. Running micro-steps: sequencing, the collaborator calls, and the point between two micro-steps when the
environment does nothing. -/

namespace Sys2Proof.Machine

@[simp] theorem Run.go_andThen {α β : Type} (a : α) (s : State) (f : α → State → Run β) :
    (Run.go a s).andThen f = f a s := rfl

@[simp] theorem Run.abandoned_andThen {α β : Type} (s : State) (f : α → State → Run β) :
    (Run.abandoned s : Run α).andThen f = .abandoned s := rfl

@[simp] theorem Run.fault_andThen {α β : Type} (x : Fault) (f : α → State → Run β) :
    (Run.fault x : Run α).andThen f = .fault x := rfl

@[simp] theorem Run.finish_go (a : Unit) (s : State) : (Run.go a s).finish = .next s := rfl

@[simp] theorem Run.finish_abandoned (s : State) : (Run.abandoned s : Run Unit).finish = .next s := rfl

@[simp] theorem Run.finish_fault (f : Fault) : (Run.fault f : Run Unit).finish = .fault f := rfl

theorem Run.thenNext_eq {α β : Type} (bd : State → Run Unit) (r : Run α) (f : α → State → Run β) :
    r.thenNext bd f = r.andThen fun a s => (bd s).andThen fun _ s' => f a s' := rfl

theorem millis_of_answers {s : State} (h : s.env.clockAnswers = true) :
    millis s = .go s.env.clock (s.log (.millis s.env.clock)) := by simp [millis, h]

theorem extHours_of_answers {s : State} (h : s.env.extAnswers = true) :
    extHours s = .go s.env.extHours (s.log (.extHours s.env.extHours)) := by simp [extHours, h]

theorem extMinutes_of_answers {s : State} (h : s.env.extAnswers = true) :
    extMinutes s = .go s.env.extMinutes (s.log (.extMinutes s.env.extMinutes)) := by simp [extMinutes, h]

theorem extSeconds_of_answers {s : State} (h : s.env.extAnswers = true) :
    extSeconds s = .go s.env.extSeconds (s.log (.extSeconds s.env.extSeconds)) := by simp [extSeconds, h]

theorem regRead_of_answers {s : State} (a : Addr) (h : s.env.busAnswers = true) :
    regRead a s = .go (s.reg a) (s.log (.regRead a (s.reg a))) := by simp [regRead, h]

theorem regWrite_of_answers {s : State} (a : Addr) (v : Byte) (h : s.env.busAnswers = true) :
    regWrite a v s = .go () ((s.store a v).log (.regWrite a v)) := by simp [regWrite, h]

/-- Without a script nothing arrives. -/
theorem State.arrive_still {s : State} (h : s.env.script = []) : s.arrive = s := by simp [State.arrive, h]

/-- Without a script nothing happens between two micro-steps. -/
theorem atomicBoundary_still {s : State} (h : s.env.script = []) : atomicBoundary s = .go () s := by
  simp [atomicBoundary, State.slotAbandons, State.arrive, h]

/-- What a step between two operations receives: the script's next slot. -/
theorem State.arrive_cons {s : State} {slot : List Event} {rest : List (List Event)} (h : s.env.script = slot :: rest) :
    s.arrive = (s.setScript rest).deliverAll slot := by simp [State.arrive, h]

/-- Between two micro-steps the next slot is delivered, and may abandon the operation (R38, R142, R150). -/
theorem atomicBoundary_cons {s : State} {slot : List Event} {rest : List (List Event)} (h : s.env.script = slot :: rest) :
    atomicBoundary s =
      if slot.any Event.abandons then .abandoned ((s.setScript rest).deliverAll slot)
      else .go () ((s.setScript rest).deliverAll slot) := by
  simp [atomicBoundary, State.slotAbandons, State.arrive, h]

/-- In the legacy interleaving the next slot's triggers run at once (R40). -/
theorem boundary_legacy_cons (n : Nat) {s : State} {slot : List Event} {rest : List (List Event)}
    (hp : s.params.atomicOps = false) (h : s.env.script = slot :: rest) :
    boundary (n + 1) s =
      (deliverPreempt (runTrigger (boundary n)) slot false (s.setScript rest)).andThen fun ab s' =>
        if ab then .abandoned s' else .go () s' := by
  simp [boundary, hp, preemptBoundary, h]

@[simp] theorem State.deliverAll_nil (s : State) : s.deliverAll [] = s := rfl

@[simp] theorem State.deliverAll_cons (s : State) (e : Event) (es : List Event) :
    s.deliverAll (e :: es) = (s.deliver e).deliverAll es := rfl

/-- The same in both interleavings. -/
theorem boundary_still (n : Nat) {s : State} (h : s.env.script = []) : boundary n s = .go () s := by
  cases n with
  | zero => exact atomicBoundary_still h
  | succ n =>
    simp only [boundary]
    split
    · exact atomicBoundary_still h
    · simp [preemptBoundary, h]

/-- With `ATOMIC_OPS` = true the point between two micro-steps is that of R38 at every depth. -/
theorem boundary_atomic (n : Nat) {s : State} (h : s.params.atomicOps = true) : boundary n s = atomicBoundary s := by
  cases n with
  | zero => rfl
  | succ n => simp [boundary, h]

/-- The gate of a trigger entry point while the environment does nothing and the counter answers (R80, R110). -/
theorem gate_still (n : Nat) {s : State} (h : s.env.script = []) (hc : s.env.clockAnswers = true) :
    gate (boundary n) s =
      .go (accepted s.env.clock s.lastAccepted) ((s.log (.millis s.env.clock)).setLast s.env.clock) := by
  have h1 : (s.log (.millis s.env.clock)).env.script = [] := by simpa using h
  simp only [gate, Run.thenNext_eq, millis_of_answers hc, Run.go_andThen, boundary_still n h1, admitStep]
  split <;> simp

end Sys2Proof.Machine
end

