-- ==== Sys2Proof/Laws/Keeps.lean ====
section
/-! SUPPORT. What an operation can do to the state, said once: whatever the environment does and in both interleavings, it is
made of a closed list of updates and ends in a closed list of faults. A property that each of the updates an operation
uses keeps, the operation keeps. -/

namespace Sys2Proof.Machine

/-- What not every operation does: driving results, moving the stored time, asking the time source, writing a register. -/
inductive Effect where
  | results
  | gate
  | getters
  | hour
  | minute
  | second
  deriving DecidableEq, Repr

/-- The ones a trigger entry point may make. -/
def triggerEffects : List Effect := [.gate, .getters, .hour, .minute, .second]

/-- The ones an operation may make when no other runs inside it. -/
def effectsOf (i : Instr) : List Effect :=
  match i with
  | .decode _ => [.results]
  | .encode _ => [.results]
  | .admitAt _ => [.gate, .results]
  | .incHour _ => [.results]
  | .incMinute _ _ => [.results]
  | .normalize _ => [.results]
  | .applyExternalTime _ _ _ => [.hour, .minute, .second]
  | .onHourButton => [.gate, .hour]
  | .onMinuteButton => [.gate, .hour, .minute]
  | .onExternalSync => triggerEffects
  | .tick => [.results]

/-- Event by event, the environment keeps `P`; `E` is what is known of the events the script delivers. -/
structure Delivered (E : Event → Prop) (P : State → Prop) : Prop where
  script : ∀ s slot rest, s.env.script = slot :: rest → P s → P (s.setScript rest) ∧ ∀ e ∈ slot, E e
  deliver : ∀ s e, E e → P s → P (s.deliver e)

/-- A value and the state it comes with, or the fault the run ends in. -/
def Run.Post {α : Type} (Q : α → Prop) (P : State → Prop) (F : Fault → Prop) (r : Run α) : Prop :=
  match r with
  | .go a s => Q a ∧ P s
  | .abandoned s => P s
  | .fault x => F x

/-- How an operation ends. -/
def OutcomePost (P : State → Prop) (F : Fault → Prop) (o : Host.Outcome State Fault Refusal) : Prop :=
  match o with
  | .next t => P t
  | .fault x => F x
  | .refused _ => False

/-- The updates an operation is made of: each keeps `P`, where `W` holds of the effect it belongs to; TICK's inversion of the
indicator stands apart. `V` is what is known of the minutes and seconds that come from outside, `F` of the faults a run
can end in. -/
structure Kept (W : Effect → Prop) (V : Byte → Prop) (P : State → Prop) (F : Fault → Prop) : Prop where
  log : ∀ s x, x.time = none → P s → P (s.log x)
  draw : ∀ s, P s → P s.draw
  drive : W .results → ∀ s r, P s → P (s.drive r)
  askTime : W .gate → ∀ s, P s → P (s.log (.millis s.env.clock))
  setLast : W .gate → ∀ s t, P s → P (s.setLast t)
  arrive : ∀ s, P s → P s.arrive
  small : ∀ v : Byte, v.toNat ≤ 59 → V v
  external : W .getters → ∀ s, P s → V s.env.extMinutes ∧ V s.env.extSeconds
  hour : W .hour → ∀ s v, v.toNat ≤ 23 → P s → P (s.store s.params.aHour (bcdByte v))
  minute : W .minute → ∀ s v, V v → v.toNat ≤ 99 → P s → P (s.store s.params.aMin (bcdByte v))
  second : W .second → ∀ s v, V v → v.toNat ≤ 99 → P s → P (s.store s.params.aSec (bcdByte v ||| Config.markerMask))
  noClock : ∀ s, P s → s.env.clockAnswers = false → F (.stuck .clock s)
  noBus : ∀ s, P s → s.env.busAnswers = false → F (.stuck .bus s)
  noTime : ∀ s, P s → s.env.extAnswers = false → F (.stuck .timeSource s)
  outOfRange : ∀ s v, P s → V v → 100 ≤ v.toNat → F (.outOfRangeEncode s)

section

variable {W : Effect → Prop} {V : Byte → Prop} {P : State → Prop} {F : Fault → Prop}

theorem Run.Post.andThen {α β : Type} {Q : α → Prop} {R : β → Prop} {r : Run α} {f : α → State → Run β}
    (hr : r.Post Q P F) (hf : ∀ a s, Q a → P s → (f a s).Post R P F) : (r.andThen f).Post R P F := by
  cases r with
  | go a s => exact hf a s hr.1 hr.2
  | abandoned s => exact hr
  | fault x => exact hr

theorem Run.Post.thenNext {α β : Type} {Q : α → Prop} {R : β → Prop} {r : Run α} {f : α → State → Run β}
    {bd : State → Run Unit} (hbd : ∀ s, P s → (bd s).Post (fun _ => True) P F)
    (hr : r.Post Q P F) (hf : ∀ a s, Q a → P s → (f a s).Post R P F) : (r.thenNext bd f).Post R P F :=
  hr.andThen fun a s ha hs => (hbd s hs).andThen fun _ s' _ hs' => hf a s' ha hs'

theorem Run.Post.finish {Q : Unit → Prop} {r : Run Unit} (hr : r.Post Q P F) : OutcomePost P F r.finish := by
  cases r with
  | go a s => exact hr.2
  | abandoned s => exact hr
  | fault x => exact hr

theorem Delivered.deliverAll {E : Event → Prop} (D : Delivered E P) (es : List Event) (s : State) (hes : ∀ e ∈ es, E e)
    (h : P s) : P (s.deliverAll es) := by
  induction es generalizing s with
  | nil => exact h
  | cons e es ih =>
    exact ih (s.deliver e) (fun e' he' => hes e' (List.mem_cons_of_mem _ he')) (D.deliver s e (hes e List.mem_cons_self) h)

/-- A whole slot keeps what each of its events keeps. -/
theorem Delivered.arrive {E : Event → Prop} (D : Delivered E P) (s : State) (h : P s) : P s.arrive := by
  unfold State.arrive
  split
  · exact h
  · rename_i slot rest hs
    exact D.deliverAll slot _ (D.script s slot rest hs h).2 (D.script s slot rest hs h).1

variable (K : Kept W V P F)

include K

theorem Kept.decodedState (b : Byte) (s : State) (h : P s) : P (decodedState b s) := by
  rcases decodedState_cases b s with e | e <;> rw [e]
  · exact h
  · exact K.draw s h

theorem Kept.millis (hw : W .gate) (s : State) (h : P s) : (millis s).Post (fun _ => True) P F := by
  unfold Machine.millis; split
  · exact ⟨trivial, K.askTime hw _ h⟩
  · exact K.noClock s h (by simp_all)

theorem Kept.extHours (s : State) (h : P s) : (extHours s).Post (fun _ => True) P F := by
  unfold Machine.extHours; split
  · exact ⟨trivial, K.log _ _ rfl h⟩
  · exact K.noTime s h (by simp_all)

theorem Kept.extMinutes (hw : W .getters) (s : State) (h : P s) : (extMinutes s).Post V P F := by
  unfold Machine.extMinutes; split
  · exact ⟨(K.external hw s h).1, K.log _ _ rfl h⟩
  · exact K.noTime s h (by simp_all)

theorem Kept.extSeconds (hw : W .getters) (s : State) (h : P s) : (extSeconds s).Post V P F := by
  unfold Machine.extSeconds; split
  · exact ⟨(K.external hw s h).2, K.log _ _ rfl h⟩
  · exact K.noTime s h (by simp_all)

theorem Kept.regRead (a : Addr) (s : State) (h : P s) : (regRead a s).Post (fun _ => True) P F := by
  unfold Machine.regRead; split
  · exact ⟨trivial, K.log _ _ rfl h⟩
  · exact K.noBus s h (by simp_all)

/-- An encode-and-store keeps what its one update keeps. -/
theorem Kept.storeEncoded (a : Addr) (v mark : Byte) (s : State) (h : P s) (hv : 100 ≤ v.toNat → F (.outOfRangeEncode s))
    (hs : v.toNat ≤ 99 → P (s.store a (bcdByte v ||| mark))) : (storeEncoded a v mark s).Post (fun _ => True) P F := by
  by_cases hle : v.toNat ≤ 99
  · simp only [Machine.storeEncoded, encoded_of_le hle, Run.go_andThen, regWrite]
    split
    · exact ⟨trivial, K.log _ _ rfl (hs hle)⟩
    · exact K.noBus s h (by simp_all)
  · rw [storeEncoded_of_gt (Nat.lt_of_not_le hle)]
    exact hv (by omega)

theorem Kept.storeHour (hw : W .hour) (v : Byte) (hv : v.toNat ≤ 23) (s : State) (h : P s) :
    (Machine.storeEncoded s.params.aHour v 0#8 s).Post (fun _ => True) P F :=
  K.storeEncoded _ _ _ _ h (fun _ => by omega) fun _ => by simpa using K.hour hw s v hv h

theorem Kept.storeMinute (hw : W .minute) (v : Byte) (hv : V v) (s : State) (h : P s) :
    (Machine.storeEncoded s.params.aMin v 0#8 s).Post (fun _ => True) P F :=
  K.storeEncoded _ _ _ _ h (K.outOfRange s v h hv) fun h99 => by simpa using K.minute hw s v hv h99 h

theorem Kept.storeSecond (hw : W .second) (v : Byte) (hv : V v) (s : State) (h : P s) :
    (Machine.storeEncoded s.params.aSec v Config.markerMask s).Post (fun _ => True) P F :=
  K.storeEncoded _ _ _ _ h (K.outOfRange s v h hv) fun h99 => K.second hw s v hv h99 h

theorem Kept.atomicBoundary (s : State) (h : P s) : (atomicBoundary s).Post (fun _ => True) P F := by
  unfold Machine.atomicBoundary; split
  · exact K.arrive s h
  · exact ⟨trivial, K.arrive s h⟩

section

variable {bd : State → Run Unit} (hbd : ∀ s, P s → (bd s).Post (fun _ => True) P F)

include hbd

theorem Kept.gate (hw : W .gate) (s : State) (h : P s) : (gate bd s).Post (fun _ => True) P F := by
  refine (K.millis hw s h).thenNext hbd fun t s' _ hs' => ?_
  unfold admitStep; split
  · exact ⟨trivial, K.setLast hw _ _ hs'⟩
  · exact (hbd s' hs').andThen fun _ s'' _ hs'' => ⟨trivial, K.setLast hw _ _ hs''⟩

theorem Kept.applyTime (hw : ∀ e ∈ [Effect.hour, .minute, .second], W e) (a b c : Byte) (hb : V b) (hc : V c) (s : State)
    (h : P s) : (applyTime bd a b c s).Post (fun _ => True) P F :=
  (K.storeHour (hw _ (by decide)) _ (Nat.le_trans (normalizeHour_le a) (by decide)) s h).thenNext hbd fun _ s1 _ h1 =>
    (K.storeMinute (hw _ (by decide)) b hb s1 h1).thenNext hbd fun _ s2 _ h2 => K.storeSecond (hw _ (by decide)) c hc s2 h2

/-- Past the gate, ON_HOUR_BUTTON reads and writes the hour. -/
theorem Kept.onHourButton (hw : W .hour) (s : State) (hg : (Machine.gate bd s).Post (fun _ => True) P F) :
    (onHourButton bd s).Post (fun _ => True) P F := by
  refine hg.andThen fun ok s2 _ h2 => ?_
  split
  · refine (hbd s2 h2).andThen fun _ s3 _ h3 => (K.regRead _ s3 h3).thenNext hbd fun hb s4 _ h4 => ?_
    have h5 := K.decodedState hb s4 h4
    have e : (Machine.decodedState hb s4).params = s4.params := by
      rcases decodedState_cases hb s4 with e | e <;> simp [e]
    simpa only [e] using
      K.storeHour hw (incHour (decodedValue hb s4.draws)) (incHour_le _) (Machine.decodedState hb s4) h5
  · exact ⟨trivial, h2⟩

/-- Past the gate, ON_MINUTE_BUTTON reads both registers and writes the minute and, on a carry, the hour. -/
theorem Kept.onMinuteButton (hw : ∀ e ∈ [Effect.hour, .minute], W e) (s : State)
    (hg : (Machine.gate bd s).Post (fun _ => True) P F) : (onMinuteButton bd s).Post (fun _ => True) P F := by
  refine hg.andThen fun ok s2 _ h2 => ?_
  split
  · refine (hbd s2 h2).andThen fun _ s3 _ h3 => (K.regRead _ s3 h3).thenNext hbd fun mb s4 _ h4 =>
      (K.regRead _ s4 h4).thenNext hbd fun hb s5 _ h5 => ?_
    refine (K.storeMinute (hw _ (by decide)) _ (K.small _ (nextMinute_le _)) _
      (K.decodedState hb _ (K.decodedState mb _ h5))).andThen fun _ s6 _ h6 => ?_
    split
    · rename_i hc
      exact (hbd s6 h6).andThen fun _ s7 _ h7 => K.storeHour (hw _ (by decide)) _ (nextHour_le _ hc) s7 h7
    · exact ⟨trivial, h6⟩
  · exact ⟨trivial, h2⟩

/-- Past the gate, ON_EXTERNAL_SYNC asks the time source and writes all three registers. -/
theorem Kept.onExternalSync (hw : ∀ e ∈ [Effect.getters, .hour, .minute, .second], W e) (s : State)
    (hg : (Machine.gate bd s).Post (fun _ => True) P F) : (onExternalSync bd s).Post (fun _ => True) P F := by
  refine hg.andThen fun ok s2 _ h2 => ?_
  split
  · exact (hbd s2 h2).andThen fun _ s3 _ h3 => (K.extHours s3 h3).thenNext hbd fun x s4 _ h4 =>
      (K.extMinutes (hw _ (by decide)) s4 h4).thenNext hbd fun m s5 hm h5 => (K.extSeconds (hw _ (by decide)) s5 h5).thenNext hbd
        fun sec s6 hs h6 => K.applyTime hbd (fun e he => hw e (List.mem_cons_of_mem _ he)) x m sec hm hs s6 h6
  · exact ⟨trivial, h2⟩

theorem Kept.tick (hw : W .results) (s : State) (h : P s.invertLed) : (tick bd s).Post (fun _ => True) P F :=
  (hbd _ h).andThen fun _ s1 _ h1 => (K.regRead _ s1 h1).thenNext hbd fun _ s2 _ h2 =>
    (K.regRead _ s2 h2).thenNext hbd fun _ s3 _ h3 => (K.regRead _ s3 h3).andThen fun _ _ _ h4 =>
      ⟨trivial, K.drive hw _ _ (K.decodedState _ _ (K.decodedState _ _ (K.decodedState _ _ h4)))⟩

/-- Past the gate, whichever the source. -/
theorem Kept.runTrigger (hw : ∀ e ∈ [Effect.getters, .hour, .minute, .second], W e) (k : Trigger) (s : State)
    (hg : (Machine.gate bd s).Post (fun _ => True) P F) : (runTrigger bd k s).Post (fun _ => True) P F := by
  cases k with
  | hourButton => exact K.onHourButton hbd (hw _ (by decide)) s hg
  | minuteButton => exact K.onMinuteButton hbd (fun e he => hw e (by revert he; cases e <;> decide)) s hg
  | externalSync => exact K.onExternalSync hbd hw s hg

end

omit K in
theorem Delivered.deliverPreempt {E : Event → Prop} (D : Delivered E P) (run : Trigger → State → Run Unit)
    (hrun : ∀ k s, P s → (run k s).Post (fun _ => True) P F) (es : List Event) (ab : Bool) (s : State)
    (hes : ∀ e ∈ es, E e) (h : P s) : (deliverPreempt run es ab s).Post (fun _ => True) P F := by
  fun_induction Machine.deliverPreempt run es ab s with
  | case1 ab s => exact ⟨trivial, h⟩
  | case2 k es s u s' hr ih =>
    have := hrun k s h
    rw [hr] at this
    exact ih (fun e he => hes e (List.mem_cons_of_mem _ he)) this.2
  | case3 k es s s' hr ih =>
    have := hrun k s h
    rw [hr] at this
    exact ih (fun e he => hes e (List.mem_cons_of_mem _ he)) this
  | case4 k es s f hr =>
    have := hrun k s h
    rwa [hr] at this
  | case5 e es ab s _ ih =>
    exact ih (fun e' he => hes e' (List.mem_cons_of_mem _ he)) (D.deliver s e (hes e List.mem_cons_self) h)

/-- What the points between two micro-steps ask for: operations one at a time; or, for the legacy interleaving, where any
trigger entry point may run at such a point, that its effects count and that each single event keeps `P`. -/
def Interleaved (W : Effect → Prop) (P : State → Prop) : Prop :=
  (∀ s, P s → s.params.atomicOps = true) ∨ (∀ e ∈ triggerEffects, W e) ∧ ∃ E, Delivered E P

theorem Kept.boundary (hw : Interleaved W P) (n : Nat) (s : State) (h : P s) :
    (boundary n s).Post (fun _ => True) P F := by
  induction n generalizing s with
  | zero => exact K.atomicBoundary s h
  | succ n ih =>
    simp only [Machine.boundary]
    split
    · exact K.atomicBoundary s h
    · rename_i ha
      obtain ⟨hw', E, D⟩ := hw.resolve_left fun hall => ha (hall s h)
      unfold preemptBoundary
      split
      · exact ⟨trivial, h⟩
      · rename_i slot rest hs
        have hk := D.script s slot rest hs h
        refine (D.deliverPreempt _ (fun k s' hs' => K.runTrigger ih (fun e he => hw' e (List.mem_cons_of_mem _ he)) k s'
            (K.gate ih (hw' _ (by decide)) s' hs')) slot false _ hk.2 hk.1).andThen
          fun ab s' _ hs' => ?_
        split
        · exact hs'
        · exact ⟨trivial, hs'⟩

/-- How an operation ends: in a state that keeps `P`, or in a fault of `F`, never in a refusal. -/
theorem Kept.exec_post {i : Instr} {s : State} (hw : ∀ e ∈ effectsOf i, W e)
    (ha : Interleaved W P)
    (hi : ∀ h m sec, i = .applyExternalTime h m sec → V m ∧ V sec)
    (he : ∀ a, i = .encode a → 100 ≤ a.toNat → F (.outOfRangeEncode s.enter))
    (hl : i = .tick → P s.enter.invertLed) (h0 : P s.enter) : OutcomePost P F (exec i s) := by
  cases i with
  | decode a => exact K.drive (hw _ (by simp [effectsOf])) _ _ (K.decodedState _ _ h0)
  | encode a =>
    by_cases hv : a.toNat ≤ 99
    · simp only [Machine.exec, execEncode, encoded_of_le hv, Run.go_andThen, Run.finish_go]
      exact K.drive (hw _ (by simp [effectsOf])) _ _ h0
    · simp only [Machine.exec, execEncode, encoded, Config.encMax, hv, if_false, Run.fault_andThen, Run.finish_fault]
      exact he a rfl (by omega)
  | admitAt t => exact K.drive (hw _ (by simp [effectsOf])) _ _ (K.setLast (hw _ (by simp [effectsOf])) _ _ h0)
  | incHour a => exact K.drive (hw _ (by simp [effectsOf])) _ _ h0
  | incMinute a b => exact K.drive (hw _ (by simp [effectsOf])) _ _ h0
  | normalize a => exact K.drive (hw _ (by simp [effectsOf])) _ _ h0
  | applyExternalTime a b c =>
    have hv := hi a b c rfl
    exact (K.applyTime K.atomicBoundary hw a b c hv.1 hv.2 _ h0).finish
  | onHourButton =>
    exact (K.onHourButton (K.boundary ha _) (hw _ (by decide)) _ (K.gate (K.boundary ha _) (hw _ (by decide)) _ h0)).finish
  | onMinuteButton =>
    exact (K.onMinuteButton (K.boundary ha _) (fun e he => hw e (List.mem_cons_of_mem _ he)) _
      (K.gate (K.boundary ha _) (hw _ (by decide)) _ h0)).finish
  | onExternalSync =>
    exact (K.onExternalSync (K.boundary ha _) (fun e he => hw e (List.mem_cons_of_mem _ he)) _
      (K.gate (K.boundary ha _) (hw _ (by decide)) _ h0)).finish
  | tick => exact (K.tick (K.boundary ha _) (hw _ (by simp [effectsOf])) _ (hl rfl)).finish

/-- An operation that ends in a next state keeps what every update keeps. -/
theorem Kept.exec (hw : ∀ e, W e) {E : Event → Prop} (D : Delivered E P) {i : Instr} {s t : State}
    (hi : ∀ h m sec, i = .applyExternalTime h m sec → V m ∧ V sec)
    (hf : ∀ a, i = .encode a → 100 ≤ a.toNat → F (.outOfRangeEncode s.enter))
    (hl : i = .tick → P s.enter.invertLed) (h0 : P s.enter) (he : exec i s = .next t) : P t := by
  have := K.exec_post (fun e _ => hw e) (.inr ⟨fun e _ => hw e, E, D⟩) hi hf hl h0
  rwa [he] at this

/-- A step that ends in a next state keeps what every update, taking the request that runs and entering it keep. -/
theorem Kept.step (hw : ∀ e, W e) {E : Event → Prop} (D : Delivered E P) {s t : State} (htake : ∀ s, P s → P s.take)
    (henter : ∀ s, P s → P s.enter)
    (htaken : ∀ s r h m sec, P s → s.next? = some r → decodeCommand r.toCommand = .ok (.applyExternalTime h m sec) →
      V m ∧ V sec)
    (hf : ∀ s, F (.outOfRangeEncode s)) (hl : ∀ s, P s → P s.invertLed) (h : P s) (he : step s = .next t) : P t := by
  have h1 := K.arrive s h
  unfold Machine.step at he
  split at he
  · cases he; exact h1
  · unfold runWaiting at he
    split at he
    · cases he; exact h1
    · rename_i r hr
      unfold runCommand at he
      split at he
      · rename_i i hi
        exact K.exec hw D (fun x m sec e => htaken _ r x m sec h1 hr (e ▸ hi)) (fun _ _ _ => hf _)
          (fun _ => hl _ (henter _ (htake _ h1))) (henter _ (htake _ h1)) he
      · cases he

end

end Sys2Proof.Machine
end

