-- ==== Sys2Proof/Laws/PerInstr.lean ====
section
/-! SUPPORT. Facts about each operation as syntax, one lemma per constructor: its command on the ports decodes back to it and
is well formed (30_encoding.md rules R55 to R58). -/

namespace Sys2Proof.Laws.PortRoundTrip

/-- The command of an operation decodes to the operation, and leaves the ports its row does not list at zero. -/
def Statement (i : Instr) : Prop := decodeCommand (encodeCommand i) = .ok i ∧ (encodeCommand i).wf = true

theorem decode (a : Byte) : Statement (.decode a) :=
  ⟨rfl, by simp [encodeCommand, Command.wf, Command.opDefined, Command.portsClear, Command.canon, listedBytes, listsTime,
    Command.bare, Instr.opcode]⟩

theorem encode (a : Byte) : Statement (.encode a) :=
  ⟨rfl, by simp [encodeCommand, Command.wf, Command.opDefined, Command.portsClear, Command.canon, listedBytes, listsTime,
    Command.bare, Instr.opcode]⟩

theorem admitAt (t : Time) : Statement (.admitAt t) :=
  ⟨rfl, by simp [encodeCommand, Command.wf, Command.opDefined, Command.portsClear, Command.canon, listedBytes, listsTime,
    Command.bare, Instr.opcode]⟩

theorem incHour (a : Byte) : Statement (.incHour a) :=
  ⟨rfl, by simp [encodeCommand, Command.wf, Command.opDefined, Command.portsClear, Command.canon, listedBytes, listsTime,
    Command.bare, Instr.opcode]⟩

theorem incMinute (a b : Byte) : Statement (.incMinute a b) :=
  ⟨rfl, by simp [encodeCommand, Command.wf, Command.opDefined, Command.portsClear, Command.canon, listedBytes, listsTime,
    Command.bare, Instr.opcode]⟩

theorem normalize (a : Byte) : Statement (.normalize a) :=
  ⟨rfl, by simp [encodeCommand, Command.wf, Command.opDefined, Command.portsClear, Command.canon, listedBytes, listsTime,
    Command.bare, Instr.opcode]⟩

theorem applyExternalTime (a b c : Byte) : Statement (.applyExternalTime a b c) :=
  ⟨rfl, by simp [encodeCommand, Command.wf, Command.opDefined, Command.portsClear, Command.canon, listedBytes, listsTime,
    Command.bare, Instr.opcode]⟩

theorem onHourButton : Statement .onHourButton := ⟨rfl, by decide⟩

theorem onMinuteButton : Statement .onMinuteButton := ⟨rfl, by decide⟩

theorem onExternalSync : Statement .onExternalSync := ⟨rfl, by decide⟩

theorem tick : Statement .tick := ⟨rfl, by decide⟩

end Sys2Proof.Laws.PortRoundTrip
end

