-- ==== Sys2Proof/Tests/Slice0.lean ====
section
/-! SUPPORT. The model's own tests: ill-formed terms the checks refuse, words written out from the op-code table, the vectors of
95_test_vectors.md one step at a time, and witnesses for the hypotheses of the obligations. -/

namespace Sys2Proof.Tests

open Sys2Proof Sys2Proof.Machine Sys2Proof.Claims

/-! ### Well-formedness refuses -/

theorem test_wf_refuses_reserved_op : Command.wf (Command.bare 0xB#4) = false := by decide

theorem test_wf_refuses_value_on_unlisted_port : Command.wf { Command.bare 0x7#4 with a := 1#8 } = false := by decide

theorem test_wf_accepts_inc_minute : Command.wf { Command.bare 0x4#4 with a := 59#8, b := 23#8 } = true := by decide

theorem test_text_refuses_unknown_name : TextCommand.nameKnown ⟨"HALT", []⟩ = false := by decide

theorem test_text_refuses_operand_count : TextCommand.countFits ⟨"INC_MINUTE", [59]⟩ = false := by decide

theorem test_text_refuses_wide_value : TextCommand.valuesFit ⟨"ENCODE", [256]⟩ = false := by decide

theorem test_text_alias : TextCommand.parse ⟨"apply_external_time", [14, 30, 5]⟩ = some (.applyExternalTime 14 30 5) := by
  decide

/-! ### Words of the op-code table (R55), written out from it -/

theorem test_word_decode : decodeTableWord 8 0b0000 = some (.decode 0#8) := by decide

theorem test_word_encode : decodeTableWord 8 0b0001 = some (.encode 0#8) := by decide

theorem test_word_admit : decodeTableWord 8 0b0010 = some (.admitAt 0#32) := by decide

theorem test_word_inc_hour : decodeTableWord 8 0b0011 = some (.incHour 0#8) := by decide

theorem test_word_inc_minute : decodeTableWord 8 0b0100 = some (.incMinute 0#8 0#8) := by decide

theorem test_word_normalize : decodeTableWord 8 0b0101 = some (.normalize 0#8) := by decide

theorem test_word_apply : decodeTableWord 8 0b0110 = some (.applyExternalTime 0#8 0#8 0#8) := by decide

theorem test_word_hour_button : decodeTableWord 8 0b0111 = some .onHourButton := by decide

theorem test_word_minute_button : decodeTableWord 8 0b1000 = some .onMinuteButton := by decide

theorem test_word_external_sync : decodeTableWord 8 0b1001 = some .onExternalSync := by decide

theorem test_word_tick : decodeTableWord 8 0b1010 = some .tick := by decide

theorem test_word_reserved : decodeTableWord 8 0b1011 = none := by decide

/-- Each operand from its own port (R56). -/
theorem test_ports_of_apply :
    (decodeCommand { op := 0b0110#4, a := 14#8, b := 30#8, c := 5#8, t := 99#32 }).toOption =
      some (.applyExternalTime 14#8 30#8 5#8) := by decide

theorem test_port_of_admit :
    (decodeCommand { op := 0b0010#4, a := 14#8, b := 30#8, c := 5#8, t := 250#32 }).toOption = some (.admitAt 250#32) := by
  decide

/-! ### Small states -/

/-- The next state of an outcome, where it is one. -/
def nextOf (o : Host.Outcome State Fault Refusal) : Option State :=
  match o with
  | .next t => some t
  | _ => none

/-- The state a fault leaves. -/
def leftOf (o : Host.Outcome State Fault Refusal) : Option State :=
  match o with
  | .fault (.outOfRangeEncode t) => some t
  | _ => none

/-- The reset state with these register bytes, under the example binding, and the counter at `now`. -/
def clockAt (hour minute second : Byte) (now : Time) : State :=
  { State.reset with
    mem := Memory.write (Memory.write (Memory.write [] 2 hour) 1 minute) 0 second
    env := { Env.reset with clock := now } }

/-- The hour, minute and seconds bytes. -/
def regs (s : State) : List Byte := [s.reg s.params.aHour, s.reg s.params.aMin, s.reg s.params.aSec]

/-- The state with this script. -/
def scripted (s : State) (sc : List (List Event)) : State := { s with env := { s.env with script := sc } }

/-- The state in the legacy interleaving. -/
def legacy (s : State) : State := { s with params := { s.params with atomicOps := false } }

/-- The state with an RTC that writes. -/
def rtcWriting (s : State) : State := { s with params := { s.params with envRtcWrites := true } }

/-! ### Vectors -/

/-- V1. -/
theorem test_decode_48 : (nextOf (exec (.decode 0x48#8) State.reset)).map (fun t => t.out.r0) = some (some 48#8) := by decide

/-- V1, C2: tens above 5, bit 7 part of the tens digit. -/
theorem test_decode_85 : (nextOf (exec (.decode 0x85#8) State.reset)).map (fun t => t.out.r0) = some (some 85#8) := by decide

/-- V2. -/
theorem test_encode_99 : (nextOf (exec (.encode 99#8) State.reset)).map (fun t => t.out.r0) = some (some 0x99#8) := by decide

/-- V2. -/
theorem test_encode_100 : (leftOf (exec (.encode 100#8) State.reset)).isSome = true := by decide

/-- V3: exactly the threshold is suppressed, and the window moves. -/
theorem test_admit_200 :
    (nextOf (exec (.admitAt 200#32) State.reset)).map (fun t => (t.out.flag, t.lastAccepted)) =
      some (some 0#1, 200#32) := by decide

/-- V3: the counter wrapped. -/
theorem test_admit_wrap :
    (nextOf (exec (.admitAt 150#32) { State.reset with lastAccepted := 4294967196#32 })).map
      (fun t => (t.out.flag, t.lastAccepted)) = some (some 1#1, 150#32) := by decide

/-- V4. -/
theorem test_inc_hour_23 : (nextOf (exec (.incHour 23#8) State.reset)).map (fun t => t.out.r0) = some (some 0#8) := by decide

/-- V4: no 8-bit wrap before the comparison. -/
theorem test_inc_hour_255 : (nextOf (exec (.incHour 255#8) State.reset)).map (fun t => t.out.r0) = some (some 0#8) := by
  decide

/-- V5: both fields wrap. -/
theorem test_inc_minute_carry :
    (nextOf (exec (.incMinute 59#8 23#8) State.reset)).map (fun t => (t.out.r0, t.out.r1, t.out.flag)) =
      some (some 0#8, some 0#8, some 1#1) := by decide

/-- V5: the hour is passed through unchecked. -/
theorem test_inc_minute_pass :
    (nextOf (exec (.incMinute 10#8 77#8) State.reset)).map (fun t => (t.out.r0, t.out.r1, t.out.flag)) =
      some (some 11#8, some 77#8, some 0#1) := by decide

/-- V6, C5. -/
theorem test_normalize_23 : (nextOf (exec (.normalize 23#8) State.reset)).map (fun t => t.out.r0) = some (some 11#8) := by
  decide

/-- V6. -/
theorem test_normalize_12 : (nextOf (exec (.normalize 12#8) State.reset)).map (fun t => t.out.r0) = some (some 12#8) := by
  decide

/-- V7, S10. -/
theorem test_apply_14_30_5 :
    (nextOf (exec (.applyExternalTime 14#8 30#8 5#8) (clockAt 0x77#8 0xFF#8 0x3C#8 0#32))).map regs =
      some [0x02#8, 0x30#8, 0x85#8] := by decide

/-- V7: a second above 99 faults with hour and minute written. -/
theorem test_apply_second_100 :
    (leftOf (exec (.applyExternalTime 9#8 30#8 100#8) (clockAt 0x01#8 0x02#8 0x03#8 0#32))).map regs =
      some [0x09#8, 0x30#8, 0x03#8] := by decide

/-- V9: the decimal carry between nibbles. -/
theorem test_hour_button_09 :
    (nextOf (exec .onHourButton (clockAt 0x09#8 0x00#8 0x80#8 1000#32))).map
      (fun t => (regs t, t.lastAccepted)) = some ([0x10#8, 0x00#8, 0x80#8], 1000#32) := by decide

/-- V9: suppressed, with no register access. -/
theorem test_hour_button_suppressed :
    (nextOf (exec .onHourButton (clockAt 0x12#8 0x00#8 0x80#8 150#32))).map
      (fun t => (regs t, t.lastAccepted, t.calls)) = some ([0x12#8, 0x00#8, 0x80#8], 150#32, [.millis 150#32]) := by decide

/-- V10: a carry, with its bus trace (P1, step 12). -/
theorem test_minute_button_carry :
    (nextOf (exec .onMinuteButton (clockAt 0x20#8 0x59#8 0x80#8 1000#32))).map (fun t => (regs t, t.calls.drop 1)) =
      some ([0x21#8, 0x00#8, 0x80#8],
        [.regRead 1#8 0x59#8, .regRead 2#8 0x20#8, .regWrite 1#8 0x00#8, .regWrite 2#8 0x21#8]) := by decide

/-- V10: without a carry the hour is not written. -/
theorem test_minute_button_no_carry :
    (nextOf (exec .onMinuteButton (clockAt 0x20#8 0x49#8 0x80#8 1000#32))).map (fun t => (regs t, t.calls.length)) =
      some ([0x20#8, 0x50#8, 0x80#8], 4) := by decide

/-- V11. -/
theorem test_external_sync :
    (nextOf (exec .onExternalSync
      ((clockAt 0x77#8 0xFF#8 0x3C#8 5000#32).setExt 14#8 30#8 5#8))).map (fun t => (regs t, t.lastAccepted)) =
      some ([0x02#8, 0x30#8, 0x85#8], 5000#32) := by decide

/-- V12. -/
theorem test_tick :
    (nextOf (exec .tick (clockAt 0x02#8 0x30#8 0x85#8 0#32))).map (fun t => (t.out, t.led)) =
      some ({ r0 := some 2#8, r1 := some 30#8, r2 := some 5#8, flag := none, led := some 1#1 }, 1#1) := by decide

/-- P5: the RTC's write between the reads and the write of a minute press is lost. -/
theorem test_lost_update :
    (nextOf (exec .onMinuteButton (scripted (rtcWriting (clockAt 0x10#8 0x58#8 0x80#8 1000#32))
      [[], [], [], [.rtcWrite .minute 0x59#8]]))).map regs = some [0x10#8, 0x59#8, 0x80#8] := by decide

/-- R40: a trigger that arrives inside TICK runs there in the legacy interleaving: minute after the carry, hour before. -/
theorem test_legacy_torn_tick :
    (nextOf (exec .tick (scripted (legacy (clockAt 0x10#8 0x59#8 0x80#8 1000#32))
      [[], [.request (.trigger .minuteButton)]]))).map (fun t => (t.out.r0, t.out.r1, regs t)) =
      some (some 10#8, some 0#8, [0x11#8, 0x00#8, 0x80#8]) := by decide

/-- R137: with operations one at a time the same request waits. -/
theorem test_atomic_request_waits :
    (nextOf (exec .tick (scripted (clockAt 0x10#8 0x59#8 0x80#8 1000#32)
      [[], [.request (.trigger .minuteButton)]]))).map (fun t => (t.out.r1, t.waiting)) =
      some (some 59#8, [.trigger .minuteButton]) := by decide

/-- R142: teardown between the two writes of a minute carry. -/
theorem test_teardown_inside_carry :
    (nextOf (exec .onMinuteButton (scripted (clockAt 0x23#8 0x59#8 0x80#8 1000#32)
      [[], [], [], [], [.teardown]]))).map (fun t => (regs t, t.stopped)) =
      some ([0x23#8, 0x00#8, 0x80#8], true) := by decide

/-- R150: reset at the same point abandons the press too, and clears the stored time. -/
theorem test_reset_inside_carry :
    (nextOf (exec .onMinuteButton (scripted (clockAt 0x23#8 0x59#8 0x80#8 1000#32)
      [[], [], [], [], [.reset]]))).map (fun t => (regs t, t.lastAccepted, t.stopped)) =
      some ([0x23#8, 0x00#8, 0x80#8], 0#32, false) := by decide

/-- V13: a reserved op code is refused by its number. -/
theorem test_reserved_step :
    (match step (State.reset.withFetchWord 8 0xB) with
      | .refused r => decide (r = .reservedOp 0xB#4)
      | _ => false) = true := by decide

/-- The first instruction after reset: a table word placed on the port runs in the next step. -/
theorem test_first_step_tick :
    (nextOf (step (State.reset.withFetchWord 8 0xA))).map (fun t => (t.led, t.waiting, t.env)) =
      some (1#1, [], Env.reset) := by decide

theorem test_first_step_hour_button :
    (nextOf (step (State.reset.withFetchWord 8 0x7))).map (fun t => t.calls) = some [.millis 0#32] := by decide

/-- R135, R137: a waiting trigger runs its entry point in the next step. -/
theorem test_trigger_step :
    (nextOf (step { clockAt 0x09#8 0x00#8 0x80#8 1000#32 with waiting := [.tick, .trigger .hourButton],
                                                               env := { Env.reset with clock := 1000#32, choices := [1] } })).map
      (fun t => (regs t, t.waiting)) = some ([0x10#8, 0x00#8, 0x80#8], [.tick]) := by decide

/-! ### Witnesses: states and operands that meet the hypotheses of the obligations, each clause at a boundary -/

/-- CommandPortsDecodeAndEncodeAgree, PresentedCommandRunsNext, TextFormReadsBack. -/
theorem witness_decodes :
    (decodeCommand { op := 0x4#4, a := 255#8, b := 255#8, c := 255#8, t := 0xFFFFFFFF#32 }).toOption =
      some (.incMinute 255#8 255#8) ∧
    (⟨"TICK", "tick", []⟩ : TextRow) ∈ textRows ∧ Instr.tick.mnemonic = "TICK" := by decide

/-- ReservedOpCodesAreRefused: the least and the greatest reserved op code, and the greatest defined one. -/
theorem witness_reserved :
    (State.reset.present (Command.bare 0xB#4)).arrive.stopped = false ∧
    (State.reset.present (Command.bare 0xB#4)).arrive.next? = some (.command (Command.bare 0xB#4)) ∧
    11 ≤ (Request.command (Command.bare 0xB#4)).toCommand.op.toNat ∧
    11 ≤ (Command.bare 0xF#4).op.toNat ∧ ¬ 11 ≤ (Command.bare 0xA#4).op.toNat := by decide

/-- StepRunsTheChosenRequest: one state for each clause. -/
theorem witness_step_clauses :
    State.reset.stop.arrive.stopped = true ∧
    (State.reset.arrive.stopped = false ∧ State.reset.arrive.next? = none) ∧
    ((State.reset.enqueue .tick).arrive.stopped = false ∧ (State.reset.enqueue .tick).arrive.next? = some .tick ∧
      (decodeCommand Request.tick.toCommand).toOption = some .tick) := by decide

/-- AnyWaitingRequestCanRunNext: the last of two. -/
theorem witness_any_waiting :
    let s : State := { State.reset with waiting := [.tick, .trigger .hourButton], env := { Env.reset with choices := [1] } }
    s.env.script = [] ∧ s.stopped = false ∧ s.env.choices = [1] ∧ s.waiting[1]? = some (.trigger .hourButton) ∧
    (decodeCommand (Request.trigger .hourButton).toCommand).toOption = some .onHourButton := by decide

/-- The state of the whole-machine statements: all premises hold and the operation completes. -/
def busy : State :=
  (scripted (clockAt 0x23#8 0x59#8 0xD9#8 201#32) [[.request .tick], [.clock 300#32], [.extTime 23#8 59#8 59#8]]).enqueue .tick

/-- No reset in the script, by running through it. -/
theorem busy_noReset : busy.NoReset := by
  intro slot h
  have h' : slot ∈ [[Event.request .tick], [.clock 300#32], [.extTime 23#8 59#8 59#8]] := h
  simp only [List.mem_cons, List.not_mem_nil, or_false] at h'
  rcases h' with rfl | rfl | rfl <;> decide

/-- OperationsDropNoWaitingRequest, OnlyTickWritesTheIndicator, OnlyTheGateWritesTheStoredTime,
OperationsWriteOnlyTheirRegisters, SequencedOperationsDriveOnlyTheirResults: TICK and an accepted minute press. -/
theorem witness_whole_machine :
    busy.NoReset ∧ busy.params.atomicOps = true ∧ busy.Quiet ∧ (nextOf (exec .tick busy)).isSome = true ∧
    (nextOf (exec .onMinuteButton busy)).isSome = true ∧ (nextOf (exec (.incHour 3#8) busy)).isSome = true ∧
    Instr.tick ∉ triggerInstrs ∧ Instr.onMinuteButton ∈ triggerInstrs ∧ 0x77#8 ∉ storesTo .onMinuteButton busy.params :=
  ⟨busy_noReset, by decide⟩

/-- OperationsDropNoWaitingRequest, its second clause: the tick that arrives inside TICK waits behind the one that waited;
SequencedOperationsDriveOnlyTheirResults, its third: nothing abandons TICK. -/
theorem witness_arrival :
    (nextOf (exec .tick busy)).map (fun t => (t.waiting, t.env.script)) = some ([.tick, .tick], busy.env.script.drop 3) ∧
    arrivals (busy.env.script.take 3) = [.tick] ∧ busy.NoAbandon := by decide

/-- SequencedOperationsDriveOnlyTheirResults: torn down, TICK drives nothing. -/
theorem witness_abandoned_tick :
    (nextOf (exec .tick (scripted State.reset [[.teardown]]))).map (fun t => t.out) = some noResult ∧
    ¬ (scripted State.reset [[.teardown]]).NoAbandon := by decide

/-- OperationsCompleteWhileAnswered. -/
theorem witness_completes : busy.Answering ∧ busy.NoSilence ∧ busy.ExtInRange := by
  refine ⟨by decide, ?_, by decide, by decide, ?_, ?_⟩
  · intro slot h who
    have h' : slot ∈ [[Event.request .tick], [.clock 300#32], [.extTime 23#8 59#8 59#8]] := h
    simp only [List.mem_cons, List.not_mem_nil, or_false] at h'
    rcases h' with rfl | rfl | rfl <;> simp
  · decide
  · decide

/-- DecodeOfBcdByte at its largest byte, DecodeOfNonBcdByteIsFree at the nearest bytes on both sides, CodecRoundTrips. -/
theorem witness_bcd_edges : Packed 0x99#8 ∧ ¬ Packed 0x9A#8 ∧ ¬ Packed 0xA0#8 ∧ Packed 0x00#8 := by decide

/-- EncodeOfIntegerUpTo99, EncodeAbove99IsAFault, CodecRoundTrips at the edge. -/
theorem witness_encode_edges : (99#8 : Byte).toNat ≤ 99 ∧ 100 ≤ (100#8 : Byte).toNat ∧
    (nextOf (exec (.encode 99#8) State.reset)).isSome = true := by decide

/-- BurstsAreSuppressedWhole: 200 apart, and 201 apart. -/
theorem witness_bursts : crowded 0#32 [200#32, 400#32] ∧ spaced 0#32 [201#32, 402#32] := by
  simp only [crowded, spaced, elapsed]; decide

/-- AdmitComparesAndMovesTheWindow: under P-MONO and, after a wrap, outside it. -/
theorem witness_mono : State.reset.lastAccepted.toNat ≤ (201#32 : Time).toNat ∧
    ¬ (4294967196#32 : Time).toNat ≤ (150#32 : Time).toNat := by decide

/-- IncrementLaws: the largest hour and minute. -/
theorem witness_time_fields : (23#8 : Byte).toNat ≤ 23 ∧ (59#8 : Byte).toNat ≤ 59 ∧ (59#8 : Byte).toNat = 59 ∧
    (58#8 : Byte).toNat ≠ 59 := by decide

/-- ApplyExternalTimeWritesThreeRegisters, ApplyExternalTimeFaultsMidway, RegistersReadAsLastWritten. -/
theorem witness_apply :
    let s := clockAt 0x23#8 0x59#8 0xD9#8 201#32
    s.env.script = [] ∧ s.env.busAnswers = true ∧ (99#8 : Byte).toNat ≤ 99 ∧ 100 ≤ (100#8 : Byte).toNat ∧ s.StoreWf ∧
    s.params.Distinct ∧ 0x55#8 ≠ s.params.aHour ∧ 0x55#8 ≠ s.params.aMin ∧ 0x55#8 ≠ s.params.aSec := by decide

/-- SuppressedTriggersOnlyMoveTheWindow at 200, TriggersShareOneGate. -/
theorem witness_suppressed :
    let s := clockAt 0x23#8 0x59#8 0xD9#8 200#32
    Instr.onHourButton ∈ triggerInstrs ∧ s.env.script = [] ∧ s.env.clockAnswers = true ∧
    (s.env.clock - s.lastAccepted).toNat ≤ 200 ∧ (nextOf (exec .onHourButton s)).isSome = true ∧
    (nextOf (exec (.admitAt s.env.clock) s)).isSome = true := by decide

/-- HourButtonAdvancesTheHour, MinuteButtonCarriesIntoTheHour, SpacedMinutePressesAreAllCounted at 201. -/
theorem witness_accepted :
    let s := clockAt 0x23#8 0x59#8 0xD9#8 201#32
    s.env.script = [] ∧ s.Answering ∧ 200 < (s.env.clock - s.lastAccepted).toNat ∧ s.StoreWf ∧ s.params.Distinct ∧
    s.RegsLegal ∧ 59 ≤ valueOf (s.reg s.params.aMin) s.draws := by decide

/-- MinuteButtonAdvancesTheMinute just below the carry, and the registers of R113. -/
theorem witness_no_carry :
    valueOf ((clockAt 0x23#8 0x58#8 0xD9#8 201#32).reg 1#8) 0 < 59 ∧
    (clockAt 0x20#8 0x48#8 0x80#8 0#32).reg 2#8 = 0x20#8 ∧ (clockAt 0x20#8 0x48#8 0x80#8 0#32).reg 1#8 = 0x48#8 ∧
    (clockAt 0x20#8 0x48#8 0x80#8 0#32).RegsLegal := by decide

/-- SpacedMinutePressesAreAllCounted: the twelve times of P1. -/
theorem witness_twelve_times :
    spaced 0#32 [1000#32, 1300#32, 1600#32, 1900#32, 2200#32, 2500#32, 2800#32, 3100#32, 3400#32, 3700#32, 4000#32,
      4300#32] := by
  simp only [spaced, elapsed]; decide

/-- The false variant of P1: the first press at 100, the rest from 400 to 3400. -/
theorem witness_eleven_times :
    ((100#32 : Time) - State.reset.lastAccepted).toNat ≤ 200 ∧
    spaced 100#32 [400#32, 700#32, 1000#32, 1300#32, 1600#32, 1900#32, 2200#32, 2500#32, 2800#32, 3100#32, 3400#32] := by
  simp only [spaced, elapsed]; decide

/-- IncrementLaws (d): functions that INC_HOUR and INC_MINUTE answer. -/
theorem witness_increment_functions :
    (∀ s h, ∃ t, exec (.incHour h) s = .next t ∧ t.out.r0 = some (incHour h)) ∧
    ∀ (s : State) (p : Byte × Byte), ∃ t, exec (.incMinute p.1 p.2) s = .next t ∧ t.out.r0 = some (nextMinute p.1) ∧
      t.out.r1 = some (nextHour p.1 p.2) :=
  ⟨fun _ _ => ⟨_, rfl, rfl⟩, fun _ _ => ⟨_, rfl, rfl, rfl⟩⟩

/-- ExternalSyncImportsTheTime and ExternalSyncFaultsMidway: the largest encodable values and the first that are not. -/
theorem witness_sync :
    let s := (clockAt 0x23#8 0x59#8 0xD9#8 201#32).setExt 255#8 99#8 99#8
    let u := s.setExt 255#8 100#8 99#8
    let w := s.setExt 255#8 99#8 100#8
    s.env.script = [] ∧ s.Answering ∧ 200 < (s.env.clock - s.lastAccepted).toNat ∧ s.env.extMinutes.toNat ≤ 99 ∧
    s.env.extSeconds.toNat ≤ 99 ∧ (u.env.script = [] ∧ u.Answering ∧ 100 ≤ u.env.extMinutes.toNat) ∧
    (w.env.script = [] ∧ w.Answering ∧ w.env.extMinutes.toNat ≤ 99 ∧ 100 ≤ w.env.extSeconds.toNat) := by decide

/-- The invariants: a state that meets them and steps. -/
theorem witness_invariants :
    let s := (clockAt 0x23#8 0x59#8 0xD9#8 201#32).enqueue (.trigger .minuteButton)
    s.StoreWf ∧ s.params.Distinct ∧ s.Quiet ∧ s.Marked ∧ s.RegsLegal ∧ s.ExtInRange ∧ (nextOf (step s)).isSome = true := by
  refine ⟨by decide, by decide, by decide, by decide, by decide, ⟨by decide, by decide, by decide, ?_⟩, by decide⟩
  decide

/-- SilentCollaboratorsStopOperations: each collaborator silent. -/
theorem witness_silent :
    let s := clockAt 0x23#8 0x59#8 0xD9#8 201#32
    ((s.silence .clock).env.clockAnswers = false ∧ (s.silence .clock).env.script = []) ∧
    ((s.silence .bus).env.busAnswers = false ∧ (s.silence .bus).env.clockAnswers = true) ∧
    ((s.silence .timeSource).env.extAnswers = false ∧ (s.silence .timeSource).env.clockAnswers = true ∧
      200 < ((s.silence .timeSource).env.clock - (s.silence .timeSource).lastAccepted).toNat) ∧
    ((s.silence .bus).env.extAnswers = true ∧ (s.silence .bus).env.script = [] ∧
      200 < ((s.silence .bus).env.clock - (s.silence .bus).lastAccepted).toNat) := by decide

/-- OnlyThreeOperationsCanFaultInEncode: the fault occurs. -/
theorem witness_encode_fault :
    (leftOf (exec .onExternalSync ((clockAt 0x23#8 0x59#8 0xD9#8 201#32).setExt 1#8 100#8 0#8))).isSome = true := by decide

/-- ResetEventClearsTheBlock, TeardownFallsBetweenWrites. -/
theorem witness_host_events :
    (scripted State.reset [[.reset]]).env.script = [[.reset]] ∧
    ((scripted State.reset [[.teardown]]).env.busAnswers = true ∧ (0#8 : Byte).toNat ≤ 99 ∧
      (scripted State.reset [[.teardown]]).env.script = [[.teardown]]) ∧
    (scripted State.reset [[], [.teardown]]).env.script = [[], [.teardown]] ∧
    ((scripted State.reset [[.reset]]).env.busAnswers = true ∧ (99#8 : Byte).toNat ≤ 99 ∧
      (scripted State.reset [[], [.reset]]).env.script = [[], [.reset]]) ∧
    (State.reset.stop.stopped = true ∧ State.reset.stop.env.script = []) := by decide

/-- RtcWriteInsideAPressIsLost, SnapshotCanBeTorn. -/
theorem witness_rtc :
    let s := rtcWriting (clockAt 0x10#8 0x59#8 0xD9#8 201#32)
    let u := scripted s [[], [], [.rtcWrite .hour 0x11#8]]
    let w := scripted s [[], [.rtcWrite .hour 0x11#8, .rtcWrite .minute 0x00#8]]
    (u.Answering ∧ u.params.atomicOps = true ∧ u.params.envRtcWrites = true ∧ u.StoreWf ∧
      u.env.script = [[], [], [.rtcWrite .hour 0x11#8]] ∧
      (scripted s [[], [.rtcWrite .hour 0x11#8]]).env.script = [[], [.rtcWrite .hour 0x11#8]] ∧ 200 < (u.env.clock - u.lastAccepted).toNat) ∧
    (w.env.busAnswers = true ∧ w.params.atomicOps = true ∧ w.params.envRtcWrites = true ∧ w.StoreWf ∧ w.params.Distinct ∧
      w.env.script = [[], [.rtcWrite .hour 0x11#8, .rtcWrite .minute 0x00#8]] ∧ Packed (w.reg w.params.aHour) ∧
      Packed 0x00#8) := by decide

/-- ExternalTimeCanBeTorn: 13:59:59 to 14:00:00 (R164). -/
theorem witness_torn_time :
    let s := scripted ((clockAt 0x10#8 0x59#8 0xD9#8 201#32).setExt 13#8 59#8 59#8) [[], [], [.extTime 14#8 0#8 0#8]]
    s.Answering ∧ s.params.atomicOps = true ∧ s.StoreWf ∧ s.params.Distinct ∧
    s.env.script = [[], [], [.extTime 14#8 0#8 0#8]] ∧ (0#8 : Byte).toNat ≤ 99 ∧
    200 < (s.env.clock - s.lastAccepted).toNat := by decide

/-- LegacyInterleavingLosesAnUpdate, LegacyInterleavingAcceptsTwice. -/
theorem witness_legacy :
    let s := legacy (clockAt 0x10#8 0x59#8 0xD9#8 201#32)
    let u := scripted s [[], [], [], [.clock 402#32, .request (.trigger .hourButton)]]
    let w := scripted s [[], [.request (.trigger .hourButton)]]
    (u.Answering ∧ u.params.atomicOps = false ∧ u.StoreWf ∧
      u.env.script = [[], [], [], [.clock 402#32, .request (.trigger .hourButton)]] ∧
      200 < (u.env.clock - u.lastAccepted).toNat ∧ 200 < ((402#32 : Time) - u.env.clock).toNat ∧
      Packed (u.reg u.params.aHour)) ∧
    (w.Answering ∧ w.params.atomicOps = false ∧ w.StoreWf ∧ w.env.script = [[], [.request (.trigger .hourButton)]] ∧
      200 < (w.env.clock - w.lastAccepted).toNat ∧ Packed (w.reg w.params.aHour)) := by decide

/-! ### Witnesses of P-MONO -/

/-- An hour press waits, 201 ms after reset. -/
def pressWaits : State := (clockAt 0x23#8 0x59#8 0xD9#8 201#32).enqueue (.trigger .hourButton)

/-- An ADMIT command waits with the time 201. -/
def timeWaits : State := State.reset.enqueue (.command { Command.bare 0x2#4 with t := 201#32 })

/-- With nothing waiting and nothing to come, every run meets P-MONO. -/
theorem monoFor_idle (n : Nat) (s : State) (hw : s.waiting = []) (hs : s.env.script = []) : s.MonoFor n := by
  have ha := State.arrive_still hs
  have hn : s.next? = none := by simp [State.next?, hw]
  induction n with
  | zero => trivial
  | succ n ih =>
    refine ⟨by simp [State.presented, ha, hn, ascending], fun t ht => ?_⟩
    have e : step s = .next s := by simp [step, ha, runWaiting, hn]
    rw [e] at ht
    cases ht
    exact ih

/-- A state that has one request to run, and nothing more to come, meets P-MONO where the step's times do. -/
theorem mono_of_one (s : State) (hr : s.Rising) (ha : ascending s.arrive.lastAccepted s.presented = true)
    (hn : (nextOf (step s)).all (fun t => t.waiting.isEmpty && t.env.script.isEmpty) = true) : s.Mono := by
  refine ⟨hr, fun n => ?_⟩
  cases n with
  | zero => trivial
  | succ n =>
    refine ⟨ha, fun t ht => ?_⟩
    rw [ht] at hn
    simp only [nextOf, Option.all_some, Bool.and_eq_true, List.isEmpty_iff] at hn
    exact monoFor_idle n t hn.1 hn.2

/-- MonotonicTimesUseTheExactDifference, its second clause, and StoredTimeNeverGoesBack. -/
theorem witness_mono_press : pressWaits.Mono ∧ pressWaits.env.script = [] ∧ pressWaits.stopped = false ∧
    pressWaits.next? = some (.trigger .hourButton) ∧ pressWaits.params.atomicOps = true ∧
    (nextOf (step pressWaits)).map (fun t => t.lastAccepted) = some 201#32 :=
  ⟨mono_of_one _ (by decide) (by decide) (by decide), by decide⟩

/-- MonotonicTimesUseTheExactDifference, its first clause. -/
theorem witness_mono_time : timeWaits.Mono ∧ timeWaits.env.script = [] ∧ timeWaits.stopped = false ∧
    (timeWaits.next?.map fun r => (decodeCommand r.toCommand).toOption) = some (some (.admitAt 201#32)) ∧
    (nextOf (step timeWaits)).isSome = true :=
  ⟨mono_of_one _ (by decide) (by decide) (by decide), by decide⟩

/-- StoredTimeNeverGoesBack: no reset to come. -/
theorem witness_mono_noReset : pressWaits.NoReset := fun _ h => nomatch h

/-- RisingCounterGivesMonotonicTimes: a counter that moves on, and one that goes back does not meet the premise. -/
theorem witness_steady : (scripted pressWaits [[.clock 201#32], [.clock 500#32, .request .tick]]).Steady ∧
    ¬ (scripted pressWaits [[.clock 200#32]]).Rising ∧ ¬ timeWaits.TimedByCounter := by decide

end Sys2Proof.Tests
end

section
/-! SUPPORT. The state family (10_state.md), its rules: what one event of the environment, one slot of the script, the choice
of a request and one step do to the state, and how an invariant of an operation is built from them. -/

namespace Sys2Proof.Machine

/-! ### One event of the environment -/

/-- An RTC write is a store at one of the three registers, or nothing (R39). -/
theorem State.deliver_rtcWrite (s : State) (f : Field) (v : Byte) :
    s.deliver (.rtcWrite f v) = s ∨ s.deliver (.rtcWrite f v) = s.store (addressOf s.params f) v := by
  by_cases h : s.params.envRtcWrites <;> simp [State.deliver, h]

@[simp] theorem State.deliver_params (s : State) (e : Event) : (s.deliver e).params = s.params := by
  cases e with
  | rtcWrite f v => rcases s.deliver_rtcWrite f v with h | h <;> simp [h]
  | _ => rfl

@[simp] theorem State.deliver_calls (s : State) (e : Event) : (s.deliver e).calls = s.calls := by
  cases e with
  | rtcWrite f v => rcases s.deliver_rtcWrite f v with h | h <;> simp [h]
  | _ => rfl

@[simp] theorem State.deliver_script (s : State) (e : Event) : (s.deliver e).env.script = s.env.script := by
  cases e with
  | rtcWrite f v => rcases s.deliver_rtcWrite f v with h | h <;> simp [h]
  | _ => rfl

/-- Only a new reading moves the counter (R23). -/
theorem State.deliver_clock (s : State) (e : Event) : (s.deliver e).env.clock = e.reading.getD s.env.clock := by
  cases e with
  | rtcWrite f v => rcases s.deliver_rtcWrite f v with h | h <;> simp [h, Event.reading]
  | _ => rfl

/-- Only a reset writes the stored time, with 0 (R150). -/
theorem State.deliver_lastAccepted (s : State) (e : Event) :
    (s.deliver e).lastAccepted = s.lastAccepted ∨ e = .reset ∧ (s.deliver e).lastAccepted = 0#32 := by
  cases e with
  | reset => exact .inr ⟨rfl, rfl⟩
  | rtcWrite f v => rcases s.deliver_rtcWrite f v with h | h <;> simp [h]
  | _ => exact .inl rfl

/-- Only a reset writes the indicator (R12, R150). -/
theorem State.deliver_led (s : State) {e : Event} (he : e ≠ .reset) : (s.deliver e).led = s.led := by
  cases e with
  | reset => exact absurd rfl he
  | rtcWrite f v => rcases s.deliver_rtcWrite f v with h | h <;> simp [h]
  | _ => rfl

/-- What waits after an event waited before it or is what it brought (R137). -/
theorem State.mem_deliver_waiting {s : State} {e : Event} {r : Request} (h : r ∈ (s.deliver e).waiting) :
    r ∈ s.waiting ∨ e.arrival = some r := by
  cases e with
  | request q => simpa [State.deliver, Event.arrival, eq_comm] using h
  | reset => simp [State.deliver] at h
  | rtcWrite f v => rcases s.deliver_rtcWrite f v with e | e <;> simp_all
  | _ => exact .inl h

theorem State.deliver_storeWf {s : State} (e : Event) (h : s.StoreWf) : (s.deliver e).StoreWf := by
  cases e with
  | rtcWrite f v =>
    rcases s.deliver_rtcWrite f v with e | e <;> rw [e]
    · exact h
    · exact s.store_wf h _ v
  | _ => exact h

/-- Under P-QUIET no event writes a register. -/
theorem State.deliver_reg {s : State} (e : Event) (h : s.Quiet) (a : Addr) : (s.deliver e).reg a = s.reg a := by
  cases e with
  | rtcWrite f v => simp [State.deliver, show s.params.envRtcWrites = false from h]
  | _ => rfl

/-! ### One slot of the script -/

/-- What each event keeps of the state and of the events still to come, a whole slot keeps. -/
theorem State.arrive_future {R : State → List Event → Prop} (hscript : ∀ s sc es, R s es → R (s.setScript sc) es)
    (hdeliver : ∀ s e es, R s (e :: es) → R (s.deliver e) es) {s : State} (h : R s s.env.script.flatten) :
    R s.arrive s.arrive.env.script.flatten := by
  have slot_then : ∀ (slot more : List Event) (u : State), R u (slot ++ more) →
      R (u.deliverAll slot) more ∧ (u.deliverAll slot).env.script = u.env.script := by
    intro slot
    induction slot with
    | nil => exact fun more u hu => ⟨hu, rfl⟩
    | cons e es ih =>
      intro more u hu
      simpa using ih more (u.deliver e) (hdeliver u e _ hu)
  cases hs : s.env.script with
  | nil => rwa [State.arrive_still hs]
  | cons slot rest =>
    rw [hs, List.flatten_cons] at h
    obtain ⟨hR, hsc⟩ := slot_then slot rest.flatten (s.setScript rest) (hscript s rest _ h)
    rw [State.arrive_cons hs, hsc]
    exact hR

/-- A field that no event and no used-up slot writes. -/
theorem State.arrive_of_deliver {α : Type} (field : State → α) (hscript : ∀ s sc, field (s.setScript sc) = field s)
    (hdeliver : ∀ s e, field (s.deliver e) = field s) (s : State) : field s.arrive = field s :=
  Delivered.arrive (E := fun _ => True) (P := fun u => field u = field s)
    ⟨fun u _ rest _ h => ⟨(hscript u rest).trans h, fun _ _ => trivial⟩, fun u e _ h => (hdeliver u e).trans h⟩ s rfl

@[simp] theorem State.arrive_params (s : State) : s.arrive.params = s.params :=
  State.arrive_of_deliver (·.params) (fun _ _ => rfl) State.deliver_params s

@[simp] theorem State.arrive_calls (s : State) : s.arrive.calls = s.calls :=
  State.arrive_of_deliver (·.calls) (fun _ _ => rfl) State.deliver_calls s

theorem State.arrive_lastAccepted (s : State) :
    s.arrive.lastAccepted = s.lastAccepted ∨ s.arrive.lastAccepted = 0#32 :=
  Delivered.arrive (E := fun _ => True) (P := fun u => u.lastAccepted = s.lastAccepted ∨ u.lastAccepted = 0#32)
    ⟨fun _ _ _ _ h => ⟨h, fun _ _ => trivial⟩, fun u e _ h => by
      rcases u.deliver_lastAccepted e with he | ⟨-, he⟩ <;> simp [he, h]⟩ s (.inl rfl)

/-- With no reset to come, what every other event keeps is kept. -/
theorem Delivered.ofNoReset {P : State → Prop} (hscript : ∀ s sc, P s → P (s.setScript sc))
    (hdeliver : ∀ s e, e ≠ .reset → P s → P (s.deliver e)) : Delivered (· ≠ .reset) fun s => s.NoReset ∧ P s where
  script s slot rest hs := by
    rintro ⟨hn, hp⟩
    simp only [State.NoReset, hs] at hn
    exact ⟨⟨fun sl hsl => hn sl (List.mem_cons_of_mem _ hsl), hscript s rest hp⟩,
      fun e he hr => hn slot List.mem_cons_self (hr ▸ he)⟩
  deliver s e he := by
    rintro ⟨hn, hp⟩
    exact ⟨by simpa only [State.NoReset, State.deliver_script] using hn, hdeliver s e he hp⟩

/-- The counter moves on only, and what is still to come goes on from there (R23). -/
theorem State.Rising.arrive {s : State} (h : s.Rising) :
    s.env.clock.toNat ≤ s.arrive.env.clock.toNat ∧ s.arrive.Rising := by
  refine State.arrive_future
    (R := fun u es => s.env.clock.toNat ≤ u.env.clock.toNat ∧ ascending u.env.clock (es.filterMap Event.reading) = true)
    (fun _ _ _ h => h) (fun u e es hR => ?_) ⟨Nat.le_refl _, h⟩
  rw [State.deliver_clock]
  cases e with
  | clock now =>
    simp only [List.filterMap_cons, Event.reading, ascending, Bool.and_eq_true, decide_eq_true_eq] at hR
    exact ⟨hR.1.trans hR.2.1, hR.2.2⟩
  | _ => exact hR

theorem State.TimedByCounter.arrive {s : State} (h : s.TimedByCounter) : s.arrive.TimedByCounter := by
  refine State.arrive_future
    (R := fun u es => ∀ r ∈ u.waiting ++ es.filterMap Event.arrival, r.toCommand.op ≠ 0x2#4)
    (fun _ _ _ h => h) (fun u e es hR r hr => hR r ?_) h
  rcases List.mem_append.mp hr with hw | hes
  · rcases State.mem_deliver_waiting hw with hw | he <;> simp [*]
  · exact List.mem_append_right _ (List.mem_filterMap.mpr <| by
      obtain ⟨e', he', ha⟩ := List.mem_filterMap.mp hes
      exact ⟨e', List.mem_cons_of_mem _ he', ha⟩)

/-! ### Choosing a request, and one step -/

@[simp] theorem State.take_params (s : State) : s.take.params = s.params := rfl
@[simp] theorem State.take_lastAccepted (s : State) : s.take.lastAccepted = s.lastAccepted := rfl
@[simp] theorem State.take_clock (s : State) : s.take.env.clock = s.env.clock := rfl

theorem State.mem_of_mem_take_waiting {s : State} {r : Request} (h : r ∈ s.take.waiting) : r ∈ s.waiting :=
  List.mem_of_mem_eraseIdx h

theorem State.mem_waiting_of_next? {s : State} {r : Request} (h : s.next? = some r) : r ∈ s.waiting :=
  List.mem_of_getElem? h

/-- Torn down, a step runs nothing (R142). -/
theorem step_of_stopped {s : State} (h : s.arrive.stopped = true) : step s = .next s.arrive := by
  simp [step, h]

theorem step_of_idle {s : State} (h : s.arrive.stopped = false) (hn : s.arrive.next? = none) :
    step s = .next s.arrive := by
  simp [step, h, runWaiting, hn]

/-- A step runs the operation of the chosen request (R15, R138). -/
theorem step_of_next {s : State} {r : Request} {i : Instr} (h : s.arrive.stopped = false) (hn : s.arrive.next? = some r)
    (hi : decodeCommand r.toCommand = .ok i) : step s = exec i s.arrive.take := by
  simp [step, h, runWaiting, hn, runCommand, hi]

/-- What a step that answers a next state has done: nothing but deliver the slot, or run one operation, with the times it
presents to the gate. -/
theorem step_cases {s t : State} (h : step s = .next t) :
    t = s.arrive ∨ ∃ r i, s.arrive.next? = some r ∧ decodeCommand r.toCommand = .ok i ∧
      exec i s.arrive.take = .next t ∧ s.presented = presentedBy i s.arrive.take := by
  cases hs : s.arrive.stopped with
  | true =>
    rw [step_of_stopped hs] at h
    cases h; exact .inl rfl
  | false =>
    cases hn : s.arrive.next? with
    | none =>
      rw [step_of_idle hs hn] at h
      cases h; exact .inl rfl
    | some r =>
      cases hi : decodeCommand r.toCommand with
      | ok i =>
        rw [step_of_next hs hn hi] at h
        exact .inr ⟨r, i, rfl, hi, h, by simp [State.presented, hs, hn, hi]⟩
      | error op => simp [step, hs, runWaiting, hn, runCommand, hi] at h

/-- The times of a step are none, or those of the operation it runs. -/
theorem State.presented_cases (s : State) :
    s.presented = [] ∨ ∃ r i, s.arrive.next? = some r ∧ decodeCommand r.toCommand = .ok i ∧
      s.presented = presentedBy i s.arrive.take := by
  unfold State.presented
  split
  · exact .inl rfl
  · split
    · exact .inl rfl
    · rename_i r hr
      split
      · rename_i i hi
        exact .inr ⟨r, i, hr, hi, rfl⟩
      · exact .inl rfl

/-! ### Building an invariant of an operation -/

/-- The effect a store at a register belongs to. -/
def Field.effect (f : Field) : Effect :=
  match f with
  | .hour => .hour
  | .minute => .minute
  | .second => .second

/-- Where nothing is asked of the faults and of the external values, a register may be stored with any byte, and the three
registers are one case. -/
theorem Kept.ofUpdates {W : Effect → Prop} {P : State → Prop} (log : ∀ s x, x.time = none → P s → P (s.log x))
    (draw : ∀ s, P s → P s.draw) (drive : ∀ s r, P s → P (s.drive r))
    (askTime : W .gate → ∀ s, P s → P (s.log (.millis s.env.clock)))
    (setLast : W .gate → ∀ s t, P s → P (s.setLast t)) (arrive : ∀ s, P s → P s.arrive)
    (store : ∀ s f v, W (Field.effect f) → P s → P (s.store (addressOf s.params f) v)) :
    Kept W (fun _ => True) P fun _ => True where
  log := log
  draw := draw
  drive _ := drive
  askTime := askTime
  setLast := setLast
  arrive := arrive
  small _ _ := trivial
  external _ _ _ := ⟨trivial, trivial⟩
  hour hw s _ _ h := store s .hour _ hw h
  minute hw s _ _ _ h := store s .minute _ hw h
  second hw s _ _ _ h := store s .second _ hw h
  noClock _ _ _ := trivial
  noBus _ _ _ := trivial
  noTime _ _ _ := trivial
  outOfRange _ _ _ _ _ := trivial

end Sys2Proof.Machine
end

section
/-! PROOFS. The state family: the store's form, the configuration, the registers an operation writes, the indicator, and
which request a step runs. -/

namespace Sys2Proof.Machine

open Sys2Proof.Claims

/-! ### The register store stays canonical -/

theorem delivered_storeWf : Delivered (fun _ => True) State.StoreWf where
  script _ _ _ _ h := ⟨h, fun _ _ => trivial⟩
  deliver _ e _ h := State.deliver_storeWf e h

theorem kept_storeWf : Kept (fun _ => True) (fun _ => True) State.StoreWf fun _ => True :=
  Kept.ofUpdates (log := fun _ _ _ h => h) (draw := fun _ h => h) (drive := fun _ _ h => h)
    (askTime := fun _ _ h => h) (setLast := fun _ _ _ h => h) (arrive := delivered_storeWf.arrive)
    (store := fun s _ v _ h => s.store_wf h _ v)

/-- Settles O34: of the updates a step is made of only a store touches the register store, and it keeps the form. -/
theorem stepKeepsTheStoreCanonical : Obligations.StepKeepsTheStoreCanonical := by
  intro s t h ht
  exact kept_storeWf.step (fun _ => trivial) delivered_storeWf (htake := fun _ h => h) (henter := fun _ h => h)
    (htaken := fun _ _ _ _ _ _ _ _ => ⟨trivial, trivial⟩) (hf := fun _ => trivial) (hl := fun _ h => h) h ht

/-- Settles O35: the reset state lists no register. -/
theorem storeIsCanonicalAtReset : Obligations.StoreIsCanonicalAtReset := State.reset_store_wf

/-! ### The configuration -/

theorem delivered_params (p : Config.Params) : Delivered (fun _ => True) (·.params = p) where
  script _ _ _ _ h := ⟨h, fun _ _ => trivial⟩
  deliver s e _ h := (s.deliver_params e).trans h

theorem kept_params (p : Config.Params) : Kept (fun _ => True) (fun _ => True) (·.params = p) fun _ => True :=
  Kept.ofUpdates (log := fun _ _ _ h => h) (draw := fun _ h => h) (drive := fun _ _ h => h)
    (askTime := fun _ _ h => h) (setLast := fun _ _ _ h => h) (arrive := (delivered_params p).arrive)
    (store := fun _ _ _ _ h => h)

theorem step_params {s t : State} (ht : step s = .next t) : t.params = s.params :=
  (kept_params s.params).step (fun _ => trivial) (delivered_params _) (htake := fun _ h => h) (henter := fun _ h => h)
    (htaken := fun _ _ _ _ _ _ _ _ => ⟨trivial, trivial⟩) (hf := fun _ => trivial) (hl := fun _ h => h) rfl ht

/-- Settles O38: no update of a step names the configuration. -/
theorem stepNeverWritesTheConfiguration : Obligations.StepNeverWritesTheConfiguration := fun _ _ => step_params

/-! ### Which registers an operation writes -/

/-- The register of an effect that an operation may have is one that its rule names (R17 to R19). -/
theorem addressOf_mem_storesTo {i : Instr} {f : Field} (h : f.effect ∈ effectsOf i) (p : Config.Params) :
    addressOf p f ∈ storesTo i p := by
  cases i with
  | applyExternalTime a b c => cases f <;> simp [storesTo, addressOf]
  | onExternalSync => cases f <;> simp [storesTo, addressOf]
  | onMinuteButton => cases f <;> simp [effectsOf, Field.effect, storesTo, addressOf] at h ⊢
  | onHourButton => cases f <;> simp [effectsOf, Field.effect, storesTo, addressOf] at h ⊢
  | _ => cases f <;> simp [effectsOf, Field.effect] at h

/-- One register byte under P-QUIET, operations one at a time. -/
def HoldsByte (p : Config.Params) (x : Addr) (v : Byte) (s : State) : Prop := s.params = p ∧ s.reg x = v

theorem delivered_holdsByte {p : Config.Params} (hq : p.envRtcWrites = false) (x : Addr) (v : Byte) :
    Delivered (fun _ => True) (HoldsByte p x v) where
  script _ _ _ _ h := ⟨h, fun _ _ => trivial⟩
  deliver s e _ := by
    rintro ⟨hp, hx⟩
    exact ⟨(s.deliver_params e).trans hp, (State.deliver_reg e (by rw [State.Quiet, hp, hq]) x).trans hx⟩

theorem kept_holdsByte {p : Config.Params} (hq : p.envRtcWrites = false) {i : Instr} {x : Addr}
    (hx : x ∉ storesTo i p) (v : Byte) :
    Kept (· ∈ effectsOf i) (fun _ => True) (HoldsByte p x v) fun _ => True :=
  Kept.ofUpdates (log := fun _ _ _ h => h) (draw := fun _ h => h) (drive := fun _ _ h => h)
    (askTime := fun _ _ h => h) (setLast := fun _ _ _ h => h) (arrive := (delivered_holdsByte hq x v).arrive)
    (store := fun s f _ hw h => ⟨h.1, by
      have hne : addressOf s.params f ≠ x := fun e => hx (e ▸ h.1 ▸ addressOf_mem_storesTo hw s.params)
      rw [State.store_reg_of_ne s _ hne, h.2]⟩)

/-- Settles O33: an operation stores at the registers of its own effects only, and under P-QUIET nothing else stores. -/
theorem operationsWriteOnlyTheirRegisters : Obligations.OperationsWriteOnlyTheirRegisters := by
  intro i s t ha hq ht x hx
  have hpost := (kept_holdsByte hq hx (s.reg x)).exec_post (i := i) (s := s) (fun _ h => h)
    (.inl fun u hu => hu.1 ▸ ha) (fun _ _ _ _ => ⟨trivial, trivial⟩) (fun _ _ _ => trivial)
    (fun _ => ⟨rfl, rfl⟩) ⟨rfl, rfl⟩
  rw [ht] at hpost
  exact hpost.2

/-! ### The indicator -/

theorem delivered_led (b : Bit) : Delivered (· ≠ .reset) fun s => s.NoReset ∧ s.led = b :=
  Delivered.ofNoReset (fun _ _ h => h) fun s _ he h => (s.deliver_led he).trans h

theorem kept_led (b : Bit) :
    Kept (fun _ => True) (fun _ => True) (fun s => s.NoReset ∧ s.led = b) fun _ => True :=
  Kept.ofUpdates (log := fun _ _ _ h => h) (draw := fun _ h => h) (drive := fun _ _ h => h)
    (askTime := fun _ _ h => h) (setLast := fun _ _ _ h => h) (arrive := (delivered_led b).arrive)
    (store := fun _ _ _ _ h => h)

/-- TICK inverts the indicator in its first micro-step, and nothing after that touches it (R116). -/
theorem execTick_led {s t : State} (hn : s.NoReset) (ht : exec .tick s = .next t) : t.led = invertBit s.led := by
  have K := kept_led (invertBit s.led)
  have hpost : OutcomePost (fun u => u.NoReset ∧ u.led = invertBit s.led) (fun _ => True) (exec .tick s) :=
    (K.tick (K.boundary (.inr ⟨fun _ _ => trivial, _, delivered_led _⟩) _) trivial s.enter ⟨hn, rfl⟩).finish
  rw [ht] at hpost
  exact hpost.2

/-- Settles O39: no update but TICK's first micro-step and a reset writes the indicator. -/
theorem onlyTickWritesTheIndicator : Obligations.OnlyTickWritesTheIndicator := by
  intro i s t hn ht
  constructor
  · rintro rfl
    exact execTick_led hn ht
  · intro hi
    exact ((kept_led s.led).exec (fun _ => trivial) (delivered_led _) (fun _ _ _ _ => ⟨trivial, trivial⟩)
      (fun _ _ _ => trivial) (fun h => absurd h hi) ⟨hn, rfl⟩ ht).2

/-! ### Which request a step runs -/

/-- Settles O5: the three ways a step goes, and the fixed command of each event source (R135). -/
theorem stepRunsTheChosenRequest : Obligations.StepRunsTheChosenRequest :=
  ⟨fun _ => ⟨step_of_stopped, step_of_idle, fun _ _ => step_of_next⟩, rfl, rfl, rfl, rfl⟩

/-- Settles O6: the placed command stands first, the schedule names it, and taking it out leaves the state as it was. -/
theorem presentedCommandRunsNext : Obligations.PresentedCommandRunsNext := by
  intro s x i hi
  have harrive : (s.present x).arrive = (s.present x).setScript s.env.script :=
    State.arrive_cons (slot := []) (rest := s.env.script) rfl
  have hnext : (s.present x).arrive.next? = some (.command x) := by
    rw [harrive]
    simp [State.next?, State.present, State.choice]
  have htake : (s.present x).arrive.take = { s with stopped := false } := by
    rw [harrive]
    simp [State.take, State.present, State.choice, State.setScript, State.setWaiting, State.useChoice]
  rw [step_of_next (by rw [harrive]; rfl) hnext hi, htake]

/-- Settles O7: an index of a waiting request is its own remainder, so the schedule can name any. -/
theorem anyWaitingRequestCanRunNext : Obligations.AnyWaitingRequestCanRunNext := by
  intro s k r i hsc hstop hch hk hi
  have hlt : k < s.waiting.length := (List.getElem?_eq_some_iff.mp hk).1
  have hchoice : s.choice s.waiting.length = k := by simp [State.choice, hch, Nat.mod_eq_of_lt hlt]
  have hnext : s.next? = some r := by rw [State.next?, hchoice, hk]
  have htake : s.take =
      { s with waiting := s.waiting.take k ++ s.waiting.drop (k + 1), env := { s.env with choices := [] } } := by
    simp [State.take, hchoice, List.eraseIdx_eq_take_drop_succ, State.setWaiting, State.useChoice, hch]
  have hstep := step_of_next (s := s) (r := r) (i := i)
  rw [State.arrive_still hsc, htake] at hstep
  exact hstep hstop hnext hi

/-- Settles O45: each value as `State.reset` lists it. -/
theorem resetLeavesTheStatedValues : Obligations.ResetLeavesTheStatedValues := ⟨rfl, rfl, rfl, rfl, rfl, rfl⟩

end Sys2Proof.Machine
end

section
/-! PROOFS. The state family: the three registers stay legal (10_state.md rule R20, R152). -/

namespace Sys2Proof.Machine

/-! ### Legal register contents -/

/-- A byte written from digits reads back as the integer (R74). -/
theorem bcdValue_bcdByte {v : Byte} (h : v.toNat ≤ 99) : (bcdValue (bcdByte v)).toNat = v.toNat := by
  rw [toNat_bcdValue (bcdByte_isBcd h), toNat_bcdByte h]
  omega

theorem holds_bcdByte {v : Byte} {hi : Nat} (h : v.toNat ≤ hi) (hhi : hi ≤ 99) : holds (bcdByte v) hi = true := by
  have h99 : v.toNat ≤ 99 := h.trans hhi
  simp [holds, bcdByte_isBcd h99, bcdValue_bcdByte h99, h]

/-- Taking the marker off a seconds byte gives back the byte it was set on (R54, R107). -/
theorem strip_marked_bcdByte {v : Byte} (h : v.toNat ≤ 59) :
    (bcdByte v ||| Config.markerMask) &&& Config.markerStrip = bcdByte v := by
  have hlow : bcdByte v &&& Config.markerStrip = bcdByte v := by
    apply BitVec.eq_of_toNat_eq
    have hlt : (bcdByte v).toNat < 128 := by rw [toNat_bcdByte (by omega)]; omega
    rw [BitVec.toNat_and]
    exact (Nat.and_two_pow_sub_one_eq_mod _ 7).trans (Nat.mod_eq_of_lt hlt)
  have hnone : Config.markerMask &&& Config.markerStrip = 0#8 := by decide
  rw [BitVec.and_comm, BitVec.and_or_distrib_left, BitVec.and_comm, hlow, BitVec.and_comm, hnone, BitVec.or_zero]

/-- P-REG with the premises it rests on, under a configuration that does not change. -/
structure Lawful (p : Config.Params) (s : State) : Prop where
  params : s.params = p
  wf : s.StoreWf
  ext : s.ExtInRange
  hour : holds (s.reg p.aHour) Config.hourMax = true
  minute : holds (s.reg p.aMin) Config.minMax = true
  second : holds (s.reg p.aSec &&& Config.markerStrip) Config.secMax = true

theorem Event.arrival_inRange {e : Event} {r : Request} (he : e.inRange = true) (ha : e.arrival = some r) :
    r.inRange = true := by
  cases e with
  | request q =>
    cases ha
    exact he
  | _ => cases ha

/-- An event within P-EXT keeps P-EXT (R106). -/
theorem State.ExtInRange.deliver {s : State} {e : Event} (he : e.inRange = true) (h : s.ExtInRange) :
    (s.deliver e).ExtInRange := by
  obtain ⟨hm, hs, hw, hsc⟩ := h
  have hscript : ∀ slot ∈ (s.deliver e).env.script, ∀ e' ∈ slot, e'.inRange = true := by
    simpa only [State.deliver_script] using hsc
  have hwaiting : ∀ r ∈ (s.deliver e).waiting, r.inRange = true := by
    intro r hr
    rcases State.mem_deliver_waiting hr with hr | ha
    · exact hw r hr
    · exact Event.arrival_inRange he ha
  cases e with
  | extTime x m sec =>
    simp only [Event.inRange, Bool.and_eq_true, decide_eq_true_eq] at he
    exact ⟨he.1, he.2, hwaiting, hscript⟩
  | rtcWrite f v => rcases s.deliver_rtcWrite f v with h | h <;> rw [h] <;> exact ⟨hm, hs, hw, hsc⟩
  | _ => exact ⟨hm, hs, hwaiting, hscript⟩

theorem State.ExtInRange.setScript_tail {s : State} {slot : List Event} {rest : List (List Event)}
    (hs : s.env.script = slot :: rest) (h : s.ExtInRange) :
    (s.setScript rest).ExtInRange ∧ ∀ e ∈ slot, e.inRange = true := by
  obtain ⟨hm, hsec, hw, hsc⟩ := h
  rw [hs] at hsc
  exact ⟨⟨hm, hsec, hw, fun sl hsl => hsc sl (List.mem_cons_of_mem _ hsl)⟩, hsc slot List.mem_cons_self⟩

theorem State.ExtInRange.take {s : State} (h : s.ExtInRange) : s.take.ExtInRange := by
  obtain ⟨hm, hs, hw, hsc⟩ := h
  exact ⟨hm, hs, fun r hr => hw r (State.mem_of_mem_take_waiting hr), hsc⟩

/-- A request that waits under P-EXT hands APPLY_EXTERNAL_TIME only minutes and seconds at most 59. -/
theorem State.ExtInRange.applyExternalTime {s : State} {r : Request} {x m sec : Byte} (h : s.ExtInRange)
    (hn : s.next? = some r) (hr : decodeCommand r.toCommand = .ok (.applyExternalTime x m sec)) :
    m.toNat ≤ Config.minMax ∧ sec.toNat ≤ Config.secMax := by
  obtain ⟨-, -, hw, -⟩ := h
  simpa only [Request.inRange, hr, Bool.and_eq_true, decide_eq_true_eq] using hw r (State.mem_waiting_of_next? hn)

/-- Updates that leave the configuration, the registers and the environment keep the whole of it. -/
theorem Lawful.of_same {p : Config.Params} {s t : State} (h : Lawful p s) (hp : t.params = s.params)
    (hm : t.mem = s.mem) (hx : s.ExtInRange → t.ExtInRange) : Lawful p t where
  params := hp.trans h.params
  wf := by rw [State.StoreWf, hm]; exact h.wf
  ext := hx h.ext
  hour := by rw [State.reg, hm]; exact h.hour
  minute := by rw [State.reg, hm]; exact h.minute
  second := by rw [State.reg, hm]; exact h.second

theorem delivered_lawful {p : Config.Params} (hq : p.envRtcWrites = false) :
    Delivered (·.inRange = true) (Lawful p) where
  script s slot rest hs h :=
    ⟨h.of_same rfl rfl fun hx => (hx.setScript_tail hs).1, (h.ext.setScript_tail hs).2⟩
  deliver s e he h := by
    have hmem : (s.deliver e).mem = s.mem := by
      cases e with
      | rtcWrite f v => simp [State.deliver, h.params, hq]
      | _ => rfl
    exact h.of_same (s.deliver_params e) hmem (·.deliver he)

section

variable {p : Config.Params} {s : State} {v : Byte}

theorem Lawful.storeHour (hd : p.Distinct) (hv : v.toNat ≤ 23) (h : Lawful p s) :
    Lawful p (s.store s.params.aHour (bcdByte v)) := by
  obtain ⟨hhm, hhs, -⟩ := hd
  rw [h.params]
  exact { h with
    wf := s.store_wf h.wf _ _
    hour := by rw [s.store_reg_self h.wf]; exact holds_bcdByte hv (by decide)
    minute := by rw [s.store_reg_of_ne _ hhm]; exact h.minute
    second := by rw [s.store_reg_of_ne _ hhs]; exact h.second }

theorem Lawful.storeMinute (hd : p.Distinct) (hv : v.toNat ≤ 59) (h : Lawful p s) :
    Lawful p (s.store s.params.aMin (bcdByte v)) := by
  obtain ⟨hhm, -, hms⟩ := hd
  rw [h.params]
  exact { h with
    wf := s.store_wf h.wf _ _
    hour := by rw [s.store_reg_of_ne _ hhm.symm]; exact h.hour
    minute := by rw [s.store_reg_self h.wf]; exact holds_bcdByte hv (by decide)
    second := by rw [s.store_reg_of_ne _ hms]; exact h.second }

theorem Lawful.storeSecond (hd : p.Distinct) (hv : v.toNat ≤ 59) (h : Lawful p s) :
    Lawful p (s.store s.params.aSec (bcdByte v ||| Config.markerMask)) := by
  obtain ⟨-, hhs, hms⟩ := hd
  rw [h.params]
  exact { h with
    wf := s.store_wf h.wf _ _
    hour := by rw [s.store_reg_of_ne _ hhs.symm]; exact h.hour
    minute := by rw [s.store_reg_of_ne _ hms.symm]; exact h.minute
    second := by rw [s.store_reg_self h.wf, strip_marked_bcdByte hv]; exact holds_bcdByte hv (by decide) }

end

theorem kept_lawful {p : Config.Params} (hq : p.envRtcWrites = false) (hd : p.Distinct) :
    Kept (fun _ => True) (·.toNat ≤ 59) (Lawful p) fun _ => True where
  log _ _ _ h := h.of_same rfl rfl id
  draw _ h := h.of_same rfl rfl id
  drive _ _ _ h := h.of_same rfl rfl id
  askTime _ _ h := h.of_same rfl rfl id
  setLast _ _ _ h := h.of_same rfl rfl id
  arrive := (delivered_lawful hq).arrive
  small _ h := h
  external _ _ h := ⟨h.ext.1, h.ext.2.1⟩
  hour _ _ _ hv h := h.storeHour hd hv
  minute _ _ _ hv _ h := h.storeMinute hd hv
  second _ _ _ hv _ h := h.storeSecond hd hv
  noClock _ _ _ := trivial
  noBus _ _ _ := trivial
  noTime _ _ _ := trivial
  outOfRange _ _ _ _ _ := trivial

/-- Settles O37: each of the three stores writes the digits of a legal value, and P-QUIET leaves no other store. -/
theorem stepKeepsTheRegistersLegal : Obligations.StepKeepsTheRegistersLegal := by
  intro s t hwf hd hq hx ⟨hh, hm, hs⟩ ht
  have h : Lawful s.params t :=
    (kept_lawful hq hd).step (fun _ => trivial) (delivered_lawful hq)
      (htake := fun _ h => h.of_same rfl rfl (·.take)) (henter := fun _ h => h.of_same rfl rfl id)
      (htaken := fun _ _ _ _ _ h => h.ext.applyExternalTime)
      (hf := fun _ => trivial) (hl := fun _ h => h.of_same rfl rfl id) ⟨rfl, hwf, hx, hh, hm, hs⟩ ht
  have hp := h.params
  exact ⟨⟨hp ▸ h.hour, hp ▸ h.minute, hp ▸ h.second⟩, h.ext, h.wf, hp⟩

end Sys2Proof.Machine
end

section
/-! PROOFS. The state family: the stored time, which only a gate writes, and P-MONO (10_state.md rule R11, 41_debounce.md
rule R83). -/

namespace Sys2Proof.Machine

open Sys2Proof.Claims

/-! ### The gate inside an operation, operations one at a time -/

/-- The answers of `Millis()` since the operation began. -/
def State.times (s : State) : List Time := s.calls.filterMap Call.time

/-- The state after micro-step 1 of a trigger entry point. -/
def State.asked (s : State) : State := s.log (.millis s.env.clock)

@[simp] theorem State.enter_times (s : State) : s.enter.times = [] := rfl

@[simp] theorem State.arrive_times (s : State) : s.arrive.times = s.times := by simp [State.times]

theorem State.log_times (s : State) {x : Call} (h : x.time = none) : (s.log x).times = s.times := by
  simp [State.times, h]

@[simp] theorem State.asked_params (s : State) : s.asked.params = s.params := rfl

@[simp] theorem State.enter_asked_times (s : State) : s.enter.asked.times = [s.env.clock] := rfl

/-- The gate is stuck at its first micro-step, abandoned after it, or moves the stored time to the answer. -/
theorem gate_post_atomic {P : State → Prop} {F : Fault → Prop} {s : State} (ha : s.params.atomicOps = true) (n : Nat)
    (hstuck : F (.stuck .clock s)) (habandoned : P s.asked.arrive) (hgo : P (s.asked.arrive.setLast s.env.clock)) :
    (gate (boundary n) s).Post (fun _ => True) P F := by
  unfold gate millis
  split
  · simp only [Run.thenNext_eq, Run.go_andThen, boundary_atomic n (s := s.log (.millis s.env.clock)) ha, atomicBoundary]
    split
    · exact habandoned
    · simp only [Run.go_andThen, admitStep, State.arrive_params, State.log_params, ha, if_true]
      exact ⟨trivial, hgo⟩
  · exact hstuck

theorem exec_trigger {i : Instr} (hi : i ∈ triggerInstrs) :
    ∃ k, ∀ s, exec i s = (runTrigger (boundary s.env.script.length) k s.enter).finish := by
  simp only [triggerInstrs, List.mem_cons, List.not_mem_nil, or_false] at hi
  rcases hi with rfl | rfl | rfl
  exacts [⟨.hourButton, fun _ => rfl⟩, ⟨.minuteButton, fun _ => rfl⟩, ⟨.externalSync, fun _ => rfl⟩]

/-- Only the trigger entry points and ADMIT go through the gate (R80). -/
theorem gate_not_mem_effectsOf {i : Instr} (ht : i ∉ triggerInstrs) (ha : ∀ now, i ≠ .admitAt now) :
    .gate ∉ effectsOf i := by
  cases i with
  | admitAt now => exact absurd rfl (ha now)
  | onHourButton | onMinuteButton | onExternalSync => exact absurd (by decide) ht
  | _ => simp [effectsOf]

/-- An operation that runs alone keeps `P` where its gate does, ADMIT does, and every other update does. -/
theorem Kept.exec_post_of_gate {P : State → Prop} {F : Fault → Prop}
    (K : Kept (· ≠ Effect.gate) (fun _ => True) P F) (ha : ∀ s, P s → s.params.atomicOps = true) {i : Instr} {s : State}
    (hgate : i ∈ triggerInstrs → ∀ n, (Machine.gate (Machine.boundary n) s.enter).Post (fun _ => True) P F)
    (hadmit : ∀ now, i = .admitAt now → OutcomePost P F (execAdmit now s))
    (hencode : F (.outOfRangeEncode s.enter)) (hinvert : P s.enter.invertLed) (henter : P s.enter) :
    OutcomePost P F (Machine.exec i s) := by
  by_cases ht : i ∈ triggerInstrs
  · obtain ⟨k, hk⟩ := exec_trigger ht
    rw [hk]
    exact (K.runTrigger (K.boundary (.inl ha) _) (by decide) k _ (hgate ht _)).finish
  · by_cases hi : ∃ now, i = .admitAt now
    · obtain ⟨now, rfl⟩ := hi
      exact hadmit now rfl
    · have hno := gate_not_mem_effectsOf ht fun now h => hi ⟨now, h⟩
      exact K.exec_post (fun e he h => hno (h ▸ he)) (.inl ha) (fun _ _ _ _ => ⟨trivial, trivial⟩)
        (fun _ _ _ => hencode) (fun _ => hinvert) henter

/-! ### The times an operation asks for -/

theorem operandTimes_of_ne_admitAt {i : Instr} (h : ∀ now, i ≠ .admitAt now) : operandTimes i = [] := by
  cases i with
  | admitAt now => exact absurd rfl (h now)
  | _ => rfl

/-- `Millis()` has been asked at most once, by a trigger entry point, and answered `c`. -/
def AskedOnce (i : Instr) (c : Time) (ts : List Time) : Prop := ts = [] ∨ i ∈ triggerInstrs ∧ ts = [c]

theorem kept_askedOnce (i : Instr) (c : Time) :
    Kept (· ≠ .gate) (fun _ => True) (fun s => s.params.atomicOps = true ∧ AskedOnce i c s.times)
      fun f => AskedOnce i c f.left.times where
  log s _ hx h := ⟨h.1, (s.log_times hx).symm ▸ h.2⟩
  draw _ h := h
  drive _ _ _ h := h
  askTime hw := absurd rfl hw
  setLast hw := absurd rfl hw
  arrive s h := by simpa using h
  small _ _ := trivial
  external _ _ _ := ⟨trivial, trivial⟩
  hour _ _ _ _ h := h
  minute _ _ _ _ _ h := h
  second _ _ _ _ _ h := h
  noClock _ h _ := h.2
  noBus _ h _ := h.2
  noTime _ h _ := h.2
  outOfRange _ _ h _ _ := h.2

/-- R110: running alone, an operation asks for the time at most once, a trigger entry point when it begins. -/
theorem answeredTimes_exec {i : Instr} {s : State} (ha : s.params.atomicOps = true) :
    AskedOnce i s.env.clock (answeredTimes (exec i s)) := by
  have hnone : AskedOnce i s.env.clock [] := .inl rfl
  have hpost := (kept_askedOnce i s.env.clock).exec_post_of_gate (fun _ h => h.1) (i := i) (s := s)
    (fun hi n => by
      have hone : AskedOnce i s.env.clock s.enter.asked.arrive.times := .inr ⟨hi, by simp⟩
      have hat : s.enter.asked.arrive.params.atomicOps = true := by simpa using ha
      exact gate_post_atomic (s := s.enter) ha n hnone ⟨hat, hone⟩ ⟨hat, hone⟩)
    (fun _ _ => ⟨ha, hnone⟩) hnone ⟨ha, hnone⟩ ⟨ha, hnone⟩
  cases ho : exec i s with
  | next t => rw [ho] at hpost; exact hpost.2
  | fault f => rw [ho] at hpost; exact hpost
  | refused r => exact hnone

/-! ### The stored time -/

theorem delivered_lastAccepted (t : Time) : Delivered (· ≠ .reset) fun s => s.NoReset ∧ s.lastAccepted = t :=
  Delivered.ofNoReset (fun _ _ h => h) fun s e he h =>
    ((s.deliver_lastAccepted e).resolve_right fun hr => he hr.1).trans h

theorem arrive_lastAccepted_of_noReset {s : State} (h : s.NoReset) :
    s.arrive.NoReset ∧ s.arrive.lastAccepted = s.lastAccepted :=
  (delivered_lastAccepted s.lastAccepted).arrive s ⟨h, rfl⟩

/-- The stored time is `l`, a time of `ts`, or a time asked since; operations one at a time and no reset to come. -/
def LastFrom (l : Time) (ts : List Time) (s : State) : Prop :=
  s.params.atomicOps = true ∧ s.NoReset ∧ s.lastAccepted ∈ l :: (ts ++ s.times)

theorem LastFrom.arrive {l : Time} {ts : List Time} {s : State} (h : LastFrom l ts s) : LastFrom l ts s.arrive := by
  obtain ⟨ha, hn, hl⟩ := h
  obtain ⟨hn', hl'⟩ := arrive_lastAccepted_of_noReset hn
  exact ⟨by simpa using ha, hn', by simpa [hl'] using hl⟩

theorem kept_lastFrom (l : Time) (ts : List Time) :
    Kept (· ≠ .gate) (fun _ => True) (LastFrom l ts) fun _ => True :=
  Kept.ofUpdates (log := fun s _ hx h => ⟨h.1, h.2.1, (s.log_times hx).symm ▸ h.2.2⟩) (draw := fun _ h => h)
    (drive := fun _ _ h => h) (askTime := fun hw => absurd rfl hw) (setLast := fun hw => absurd rfl hw)
    (arrive := fun _ => LastFrom.arrive) (store := fun _ _ _ _ h => h)

/-- R11, R80: running alone and not reset, an operation leaves the stored time or moves it to a time it presents. -/
theorem exec_lastAccepted_mem {i : Instr} {s t : State} (ha : s.params.atomicOps = true) (hn : s.NoReset)
    (ht : exec i s = .next t) : t.lastAccepted ∈ s.lastAccepted :: presentedBy i s := by
  have henter : LastFrom s.lastAccepted (operandTimes i) s.enter := ⟨ha, hn, List.mem_cons_self⟩
  have hpost := (kept_lastFrom s.lastAccepted (operandTimes i)).exec_post_of_gate (fun _ h => h.1) (i := i) (s := s)
    (fun _ n => by
      have hasked : LastFrom s.lastAccepted (operandTimes i) s.enter.asked.arrive :=
        LastFrom.arrive ⟨ha, hn, List.mem_cons_self⟩
      exact gate_post_atomic (s := s.enter) ha n trivial hasked ⟨hasked.1, hasked.2.1, by
        have : s.env.clock ∈ s.enter.asked.arrive.times := by simp
        exact List.mem_cons_of_mem _ (List.mem_append_right _ this)⟩)
    (fun now hi => ⟨ha, hn, by subst hi; exact List.mem_cons_of_mem _ List.mem_cons_self⟩) trivial henter henter
  rw [ht] at hpost
  rw [presentedBy, ht]
  exact hpost.2.2

/-- Settles O40: an operation without a gate presents no time, so the stored time can only be the one it was. -/
theorem onlyTheGateWritesTheStoredTime : Obligations.OnlyTheGateWritesTheStoredTime := by
  intro i s t ha hn ht htrigger hadmit
  have hanswered : answeredTimes (exec i s) = [] :=
    (answeredTimes_exec ha).resolve_right fun h => htrigger h.1
  simpa [presentedBy, hanswered, operandTimes_of_ne_admitAt hadmit] using exec_lastAccepted_mem ha hn ht

/-! ### P-MONO -/

/-- The first bounds every other. -/
theorem le_of_ascending {l t : Time} {ts : List Time} (h : ascending l ts = true) (ht : t ∈ l :: ts) :
    l.toNat ≤ t.toNat := by
  induction ts generalizing l with
  | nil => rw [List.mem_singleton.mp ht]
  | cons a ts ih =>
    simp only [ascending, Bool.and_eq_true, decide_eq_true_eq] at h
    rcases List.mem_cons.mp ht with rfl | ht
    · exact Nat.le_refl _
    · exact h.1.trans (ih h.2 ht)

theorem kept_rising :
    Kept (fun _ => True) (fun _ => True) (fun s => s.params.atomicOps = true ∧ s.Rising) fun _ => True :=
  Kept.ofUpdates (log := fun _ _ _ h => h) (draw := fun _ h => h) (drive := fun _ _ h => h)
    (askTime := fun _ _ h => h) (setLast := fun _ _ _ h => h)
    (arrive := fun s h => ⟨by simpa using h.1, h.2.arrive.2⟩) (store := fun _ _ _ _ h => h)

/-- Operations one at a time, a step leaves a counter that never goes back. -/
theorem State.Rising.step {s t : State} (h : s.Rising) (ha : s.params.atomicOps = true) (ht : step s = .next t) :
    t.Rising := by
  have harrive := kept_rising.arrive s ⟨ha, h⟩
  rcases step_cases ht with rfl | ⟨r, i, -, -, he, -⟩
  · exact harrive.2
  · have hpost := kept_rising.exec_post (i := i) (s := s.arrive.take) (fun _ _ => trivial) (.inl fun _ h => h.1)
      (fun _ _ _ _ => ⟨trivial, trivial⟩) (fun _ _ _ => trivial) (fun _ => harrive) harrive
    rw [he] at hpost
    exact hpost.2

/-- Settles O54: a step that moves the stored time moves it to a time it presents, and under P-MONO none of those is
before it. -/
theorem storedTimeNeverGoesBack : Obligations.StoredTimeNeverGoesBack := by
  intro s t ⟨hrise, hmono⟩ ha hn ht
  obtain ⟨hn', hl'⟩ := arrive_lastAccepted_of_noReset hn
  refine ⟨?_, hrise.step ha ht, fun n => (hmono (n + 1)).2 t ht⟩
  have hasc : ascending s.lastAccepted s.presented = true := hl' ▸ (hmono 1).1
  rcases step_cases ht with rfl | ⟨r, i, -, -, he, hp⟩
  · rw [hl']
  · have hmem := exec_lastAccepted_mem (s := s.arrive.take) (by simpa using ha) hn' he
    rw [State.take_lastAccepted, hl', ← hp] at hmem
    exact le_of_ascending hasc hmem

/-! ### A rising counter -/

theorem State.Steady.arrive {s : State} (h : s.Steady) : s.arrive.Steady := by
  obtain ⟨ha, hl, hr, ht⟩ := h
  refine ⟨by simpa using ha, ?_, hr.arrive.2, ht.arrive⟩
  rcases s.arrive_lastAccepted with he | he <;> rw [he]
  · exact hl.trans hr.arrive.1
  · exact Nat.zero_le _

theorem State.Steady.take {s : State} (h : s.Steady) : s.take.Steady := by
  obtain ⟨ha, hl, hr, ht⟩ := h
  refine ⟨ha, hl, hr, fun r hm => ht r ?_⟩
  rcases List.mem_append.mp hm with hw | hs
  · exact List.mem_append_left _ (State.mem_of_mem_take_waiting hw)
  · exact List.mem_append_right _ hs

theorem kept_steady : Kept (· ≠ .gate) (fun _ => True) State.Steady fun _ => True :=
  Kept.ofUpdates (log := fun _ _ _ h => h) (draw := fun _ h => h) (drive := fun _ _ h => h)
    (askTime := fun hw => absurd rfl hw) (setLast := fun hw => absurd rfl hw) (arrive := fun _ h => h.arrive)
    (store := fun _ _ _ _ h => h)

/-- The gate stores a reading that the counter does not fall behind (R82, R83). -/
theorem State.Steady.exec {i : Instr} {s t : State} (h : s.Steady) (hadmit : ∀ now, i ≠ .admitAt now)
    (ht : exec i s = .next t) : t.Steady := by
  have ⟨hatomic, _, hrise, _⟩ := h
  obtain ⟨hatomic', -, hrest⟩ : s.enter.asked.arrive.Steady := State.Steady.arrive h
  have hclock : s.env.clock.toNat ≤ s.enter.asked.arrive.env.clock.toNat :=
    (State.Rising.arrive (s := s.enter.asked) hrise).1
  have hpost := kept_steady.exec_post_of_gate (fun _ h => h.1) (i := i) (s := s)
    (fun _ n => gate_post_atomic (s := s.enter) hatomic n trivial (State.Steady.arrive h) ⟨hatomic', hclock, hrest⟩)
    (fun now hi => absurd hi (hadmit now)) trivial h h
  rw [ht] at hpost
  exact hpost

theorem opcode_of_decode_admitAt {x : Command} {now : Time} (h : decodeCommand x = .ok (.admitAt now)) :
    x.op = 0x2#4 := by
  unfold decodeCommand at h
  split at h <;> cases h
  exact BitVec.eq_of_toNat_eq ‹_›

/-- No request that runs is ADMIT. -/
theorem State.Steady.ne_admitAt {s : State} {r : Request} {i : Instr} (h : s.Steady) (hn : s.next? = some r)
    (hi : decodeCommand r.toCommand = .ok i) (now : Time) : i ≠ .admitAt now := by
  rintro rfl
  obtain ⟨-, -, -, htimed⟩ := h
  exact htimed r (List.mem_append_left _ (State.mem_waiting_of_next? hn)) (opcode_of_decode_admitAt hi)

theorem State.Steady.step {s t : State} (h : s.Steady) (ht : step s = .next t) : t.Steady := by
  rcases step_cases ht with rfl | ⟨r, i, hn, hi, he, -⟩
  · exact h.arrive
  · exact h.arrive.take.exec (h.arrive.ne_admitAt hn hi) he

/-- The one time a step may present is the counter's reading when its operation begins. -/
theorem State.Steady.ascending_presented {s : State} (h : s.Steady) :
    ascending s.arrive.lastAccepted s.presented = true := by
  rcases s.presented_cases with hp | ⟨r, i, hn, hi, hp⟩
  · simp [hp, ascending]
  · rw [hp, presentedBy, operandTimes_of_ne_admitAt (h.arrive.ne_admitAt hn hi), List.nil_append]
    rcases answeredTimes_exec (i := i) h.arrive.take.1 with ha | ⟨-, ha⟩
    · simp [ha, ascending]
    · simpa [ha, ascending] using h.arrive.2.1

theorem State.Steady.monoFor {s : State} (h : s.Steady) (n : Nat) : s.MonoFor n := by
  induction n generalizing s with
  | zero => trivial
  | succ n ih => exact ⟨h.ascending_presented, fun t ht => ih (h.step ht)⟩

/-- Settles O55: with the counter as the only source of time, what a step stores is a reading, which the next is not
before. -/
theorem risingCounterGivesMonotonicTimes : Obligations.RisingCounterGivesMonotonicTimes :=
  fun _ h => ⟨fun _ => h.step, h.2.2.1, h.monoFor⟩

end Sys2Proof.Machine
end

section
/-! SUPPORT. The memory family (20_memory.md), its rules: the values of the rules' arithmetic, a collaborator that is silent,
the point between two micro-steps, and each sequenced operation from what its points deliver. -/

namespace Sys2Proof.Machine

open Sys2Proof.Claims

/-! ### The rules' arithmetic -/

theorem accepted_of_lt {now last : Time} (h : 200 < (now - last).toNat) : accepted now last = true := by
  simpa [accepted, elapsed, Config.tRefract] using h

theorem toNat_incHour (h : Byte) : (incHour h).toNat = hourAfter h.toNat := by
  unfold incHour hourAfter Config.hourMax
  split
  · rfl
  · simp only [BitVec.toNat_ofNat]; omega

theorem toNat_normalizeHour (h : Byte) : (normalizeHour h).toNat = displayHour h.toNat := by
  unfold normalizeHour displayHour Config.normZeroFrom Config.normSubAbove
  split
  · rfl
  · split
    · simp only [BitVec.toNat_ofNat]; omega
    · rfl

/-- A BCD byte, in the model's words and in the rule's (R52 b). -/
theorem isBcd_iff_packed (b : Byte) : isBcd b = true ↔ Packed b := isBcd_iff b

theorem toNat_decodedValue (b : Byte) (n : Nat) : (decodedValue b n).toNat = valueOf b n := by
  unfold decodedValue valueOf
  by_cases h : Packed b
  · have hb := (isBcd_iff_packed b).mpr h
    simp [h, hb, toNat_bcdValue hb, packedNat]
  · simp [h, mt (isBcd_iff_packed b).mp h]

theorem valueOf_of_packed {b : Byte} (h : Packed b) (n : Nat) : valueOf b n = packedNat b := by simp [valueOf, h]

/-- A byte written from digits reads back as the integer (R74). -/
theorem valueOf_packedByte {v : Nat} (h : v ≤ 99) (n : Nat) : valueOf (packedByte v) n = v := by
  have hdigits : (packedByte v).toNat = 16 * (v / 10) + v % 10 := by
    simp only [packedByte, BitVec.toNat_ofNat]; omega
  have hpacked : Packed (packedByte v) := by simp only [Packed, hdigits]; omega
  rw [valueOf_of_packed hpacked, packedNat, hdigits]
  omega

theorem hourAfter_le (h : Nat) : hourAfter h ≤ 23 := by unfold hourAfter; split <;> omega

/-- The byte an hour press writes for the byte it read (R110). -/
def hourByteAfter (b : Byte) (n : Nat) : Byte := bcdByte (incHour (decodedValue b n))

theorem hourByteAfter_eq_packedByte (b : Byte) (n : Nat) : hourByteAfter b n = packedByte (hourAfter (valueOf b n)) := by
  rw [← toNat_decodedValue, ← toNat_incHour]
  rfl

/-! ### DECODE changes only the count of free values -/

section

variable (b : Byte) (s : State)

@[simp] theorem decodedState_params : (decodedState b s).params = s.params := by
  rcases decodedState_cases b s with h | h <;> simp [h]
@[simp] theorem decodedState_lastAccepted : (decodedState b s).lastAccepted = s.lastAccepted := by
  rcases decodedState_cases b s with h | h <;> simp [h]
@[simp] theorem decodedState_mem : (decodedState b s).mem = s.mem := by
  rcases decodedState_cases b s with h | h <;> simp [h]
@[simp] theorem decodedState_calls : (decodedState b s).calls = s.calls := by
  rcases decodedState_cases b s with h | h <;> simp [h]
@[simp] theorem decodedState_waiting : (decodedState b s).waiting = s.waiting := by
  rcases decodedState_cases b s with h | h <;> simp [h]
@[simp] theorem decodedState_env : (decodedState b s).env = s.env := by
  rcases decodedState_cases b s with h | h <;> simp [h]
@[simp] theorem decodedState_reg (a : Addr) : (decodedState b s).reg a = s.reg a := by simp [State.reg]

end

/-! ### A collaborator that is silent (R134) -/

section

variable {s : State}

theorem millis_of_silent (h : s.env.clockAnswers = false) : millis s = .fault (.stuck .clock s) := by simp [millis, h]

theorem extHours_of_silent (h : s.env.extAnswers = false) : extHours s = .fault (.stuck .timeSource s) := by
  simp [extHours, h]

theorem regRead_of_silent (a : Addr) (h : s.env.busAnswers = false) : regRead a s = .fault (.stuck .bus s) := by
  simp [regRead, h]

/-- The byte is encoded, and its write has no step. -/
theorem storeEncoded_of_silent {v : Byte} (hv : v.toNat ≤ 99) (a : Addr) (mark : Byte) (h : s.env.busAnswers = false) :
    storeEncoded a v mark s = .fault (.stuck .bus s) := by
  simp [storeEncoded, encoded_of_le hv, regWrite, h]

theorem normalizeHour_le_99 (h : Byte) : (normalizeHour h).toNat ≤ 99 := (normalizeHour_le h).trans (by decide)

/-- The hour is the first write of all (R105). -/
theorem applyTime_of_silent (bd : State → Run Unit) (a b c : Byte) (h : s.env.busAnswers = false) :
    applyTime bd a b c s = .fault (.stuck .bus s) := by
  simp [applyTime, Run.thenNext_eq, storeEncoded_of_silent (normalizeHour_le_99 a) _ _ h]

/-- A gate that has no step stops every trigger entry point (R110, R112, R114). -/
theorem runTrigger_of_gate_fault {bd : State → Run Unit} {f : Fault} (h : gate bd s = .fault f) (k : Trigger) :
    runTrigger bd k s = .fault f := by
  cases k <;> simp [runTrigger, onHourButton, onMinuteButton, onExternalSync, h]

theorem gate_of_silent (bd : State → Run Unit) (h : s.env.clockAnswers = false) :
    gate bd s = .fault (.stuck .clock s) := by
  simp [gate, Run.thenNext_eq, millis_of_silent h]

end

/-! ### The point between two micro-steps -/

/-- A slot in which nothing happens, in both interleavings. -/
theorem boundary_emptySlot (n : Nat) {s : State} {rest : List (List Event)} (h : s.env.script = [] :: rest) :
    boundary n s = .go () (s.setScript rest) := by
  cases ha : s.params.atomicOps with
  | true => simp [boundary_atomic n ha, atomicBoundary_cons h]
  | false =>
    cases n with
    | zero => exact (atomicBoundary_cons h).trans (by simp)
    | succ n => simp [boundary_legacy_cons n ha h, deliverPreempt]

/-- With operations one at a time, a slot that neither tears down nor resets is delivered (R38, R39). -/
theorem boundary_delivers (n : Nat) {s : State} {slot : List Event} {rest : List (List Event)}
    (ha : s.params.atomicOps = true) (h : s.env.script = slot :: rest) (hslot : slot.any Event.abandons = false) :
    boundary n s = .go () ((s.setScript rest).deliverAll slot) := by
  simp [boundary_atomic n ha, atomicBoundary_cons h, hslot]

/-- Teardown or reset abandons the operation in flight (R142, R150). -/
theorem atomicBoundary_abandons {s : State} {e : Event} {rest : List (List Event)} (h : s.env.script = [e] :: rest)
    (he : e.abandons = true) : atomicBoundary s = .abandoned ((s.setScript rest).deliver e) := by
  simp [atomicBoundary_cons h, he]

/-- In the legacy interleaving an hour press that arrives alone runs at once, and the operation goes on after it (R40). -/
theorem boundary_hourPress (n : Nat) {s t : State} {rest : List (List Event)} (ha : s.params.atomicOps = false)
    (h : s.env.script = [.request (.trigger .hourButton)] :: rest)
    (ht : onHourButton (boundary n) (s.setScript rest) = .go () t) : boundary (n + 1) s = .go () t := by
  simp [boundary_legacy_cons n ha h, deliverPreempt, runTrigger, ht]

/-- So does one that arrives right after a new reading of the counter, and its gate asks for that reading. -/
theorem boundary_clock_hourPress (n : Nat) {s t : State} {now : Time} {rest : List (List Event)}
    (ha : s.params.atomicOps = false) (h : s.env.script = [.clock now, .request (.trigger .hourButton)] :: rest)
    (ht : onHourButton (boundary n) ((s.setScript rest).setClock now) = .go () t) : boundary (n + 1) s = .go () t := by
  simp [boundary_legacy_cons n ha h, deliverPreempt, Event.abandons, State.deliver, runTrigger, ht]

/-- With operations one at a time and `ENV_RTC_WRITES`, an RTC event is a store (R39). -/
theorem boundary_rtcWrite (n : Nat) {s : State} {f : Field} {v : Byte} {rest : List (List Event)}
    (ha : s.params.atomicOps = true) (hrtc : s.params.envRtcWrites = true) (h : s.env.script = [.rtcWrite f v] :: rest) :
    boundary n s = .go () ((s.setScript rest).store (addressOf s.params f) v) := by
  simp [boundary_delivers n ha h, Event.abandons, State.deliver, hrtc]

/-- Two RTC events in one slot are two stores (R39). -/
theorem boundary_rtcWrite_two (n : Nat) {s : State} {f g : Field} {v w : Byte} {rest : List (List Event)}
    (ha : s.params.atomicOps = true) (hrtc : s.params.envRtcWrites = true)
    (h : s.env.script = [.rtcWrite f v, .rtcWrite g w] :: rest) :
    boundary n s = .go () (((s.setScript rest).store (addressOf s.params f) v).store (addressOf s.params g) w) := by
  simp [boundary_delivers n ha h, Event.abandons, State.deliver, hrtc]

/-! ### The gate, from what its points deliver -/

section

variable {bd : State → Run Unit} {s s1 : State}

theorem gate_atomic_accepts (hc : s.env.clockAnswers = true) (h1 : bd s.asked = .go () s1)
    (ha : s1.params.atomicOps = true) (hacc : 200 < (s.env.clock - s1.lastAccepted).toNat) :
    gate bd s = .go true (s1.setLast s.env.clock) := by
  simp only [State.asked] at h1
  simp [gate, Run.thenNext_eq, millis_of_answers hc, h1, admitStep, ha, accepted_of_lt hacc]

/-- The comparison is done before the second point, the write after it (R40). -/
theorem gate_legacy_accepts {s2 : State} (hc : s.env.clockAnswers = true) (h1 : bd s.asked = .go () s1)
    (ha : s1.params.atomicOps = false) (hacc : 200 < (s.env.clock - s1.lastAccepted).toNat) (h2 : bd s1 = .go () s2) :
    gate bd s = .go true (s2.setLast s.env.clock) := by
  simp only [State.asked] at h1
  simp [gate, Run.thenNext_eq, millis_of_answers hc, h1, admitStep, ha, h2, accepted_of_lt hacc]

end

@[simp] theorem State.asked_env (s : State) : s.asked.env = s.env := rfl
@[simp] theorem State.asked_calls (s : State) : s.asked.calls = s.calls ++ [.millis s.env.clock] := rfl
@[simp] theorem State.asked_lastAccepted (s : State) : s.asked.lastAccepted = s.lastAccepted := rfl
@[simp] theorem State.asked_waiting (s : State) : s.asked.waiting = s.waiting := rfl
@[simp] theorem State.asked_mem (s : State) : s.asked.mem = s.mem := rfl
@[simp] theorem State.asked_reg (s : State) (a : Addr) : s.asked.reg a = s.reg a := rfl

/-- The state after micro-step 2 of a trigger entry point that nothing interrupts: the gate has moved the stored time to
the answer of `Millis()` (R80). -/
def State.gated (s : State) : State := s.asked.setLast s.env.clock

@[simp] theorem State.gated_params (s : State) : s.gated.params = s.params := rfl
@[simp] theorem State.gated_lastAccepted (s : State) : s.gated.lastAccepted = s.env.clock := rfl
@[simp] theorem State.gated_waiting (s : State) : s.gated.waiting = s.waiting := rfl
@[simp] theorem State.gated_calls (s : State) : s.gated.calls = s.calls ++ [.millis s.env.clock] := rfl
@[simp] theorem State.gated_draws (s : State) : s.gated.draws = s.draws := rfl
@[simp] theorem State.gated_env (s : State) : s.gated.env = s.env := rfl
@[simp] theorem State.gated_mem (s : State) : s.gated.mem = s.mem := rfl
@[simp] theorem State.gated_reg (s : State) (a : Addr) : s.gated.reg a = s.reg a := rfl

/-- The gate accepts, and nothing happens at its points. -/
theorem gate_still_accepts (n : Nat) {s : State} (h : s.env.script = []) (hclock : s.env.clockAnswers = true)
    (hacc : 200 < (s.env.clock - s.lastAccepted).toNat) : gate (boundary n) s = .go true s.gated := by
  rw [gate_still n h hclock, accepted_of_lt hacc]
  rfl

/-- The gate with operations one at a time, when the slot at its point is empty. -/
theorem gate_atomic_emptySlot (n : Nat) {s : State} {rest : List (List Event)} (ha : s.params.atomicOps = true)
    (hs : s.env.script = [] :: rest) (hclock : s.env.clockAnswers = true)
    (hacc : 200 < (s.env.clock - s.lastAccepted).toNat) :
    gate (boundary n) s = .go true (s.gated.setScript rest) :=
  gate_atomic_accepts (s1 := s.asked.setScript rest) hclock (boundary_emptySlot n hs) ha hacc

/-! ### A trigger entry point whose gate accepts and whose next call has no step (R134) -/

section

variable (n : Nat) {s : State} (h : s.env.script = []) (hgate : gate (boundary n) s = .go true s.gated)

include h hgate

theorem onHourButton_of_silent (hbus : s.env.busAnswers = false) :
    onHourButton (boundary n) s = .fault (.stuck .bus s.gated) := by
  simp [onHourButton, hgate, boundary_still, h, Run.thenNext_eq, regRead_of_silent, hbus]

theorem onMinuteButton_of_silent (hbus : s.env.busAnswers = false) :
    onMinuteButton (boundary n) s = .fault (.stuck .bus s.gated) := by
  simp [onMinuteButton, hgate, boundary_still, h, Run.thenNext_eq, regRead_of_silent, hbus]

theorem onExternalSync_of_silent (hext : s.env.extAnswers = false) :
    onExternalSync (boundary n) s = .fault (.stuck .timeSource s.gated) := by
  simp [onExternalSync, hgate, boundary_still, h, Run.thenNext_eq, extHours_of_silent, hext]

/-- The three getters come before the first write (R114). -/
theorem onExternalSync_of_silent_bus (hext : s.env.extAnswers = true) (hbus : s.env.busAnswers = false) :
    onExternalSync (boundary n) s = .fault (.stuck .bus
      (((s.gated.log (.extHours s.env.extHours)).log (.extMinutes s.env.extMinutes)).log
        (.extSeconds s.env.extSeconds))) := by
  simp [onExternalSync, hgate, boundary_still, h, Run.thenNext_eq, extHours_of_answers, extMinutes_of_answers,
    extSeconds_of_answers, hext, applyTime_of_silent, hbus]

end

/-! ### An accepted hour press, from what its points deliver -/

/-- The state after micro-step 3 of an hour press: the hour register has been read (R110). -/
def State.hourRead (s : State) : State := s.log (.regRead s.params.aHour (s.reg s.params.aHour))

@[simp] theorem State.hourRead_params (s : State) : s.hourRead.params = s.params := rfl
@[simp] theorem State.hourRead_env (s : State) : s.hourRead.env = s.env := rfl
@[simp] theorem State.hourRead_lastAccepted (s : State) : s.hourRead.lastAccepted = s.lastAccepted := rfl
@[simp] theorem State.hourRead_waiting (s : State) : s.hourRead.waiting = s.waiting := rfl
@[simp] theorem State.hourRead_calls (s : State) :
    s.hourRead.calls = s.calls ++ [.regRead s.params.aHour (s.reg s.params.aHour)] := rfl
@[simp] theorem State.hourRead_reg (s : State) (a : Addr) : s.hourRead.reg a = s.reg a := rfl
@[simp] theorem State.hourRead_draws (s : State) : s.hourRead.draws = s.draws := rfl

/-- The state after micro-step 4 of an hour press that read `b`: the next hour has been written (R110). -/
def State.advanceHour (s : State) (b : Byte) : State :=
  ((decodedState b s).store s.params.aHour (hourByteAfter b s.draws)).log
    (.regWrite s.params.aHour (hourByteAfter b s.draws))

section

variable (s : State) (b : Byte)

@[simp] theorem State.advanceHour_params : (s.advanceHour b).params = s.params := by simp [advanceHour]
@[simp] theorem State.advanceHour_lastAccepted : (s.advanceHour b).lastAccepted = s.lastAccepted := by simp [advanceHour]
@[simp] theorem State.advanceHour_waiting : (s.advanceHour b).waiting = s.waiting := by simp [advanceHour]
@[simp] theorem State.advanceHour_env : (s.advanceHour b).env = s.env := by simp [advanceHour]
@[simp] theorem State.advanceHour_calls :
    (s.advanceHour b).calls = s.calls ++ [.regWrite s.params.aHour (hourByteAfter b s.draws)] := by simp [advanceHour]

theorem State.advanceHour_storeWf {s : State} (h : s.StoreWf) : (s.advanceHour b).StoreWf :=
  State.store_wf _ (by simpa using h) _ _

/-- The hour register then holds the hour after `b`, by the rule's arithmetic (R90, R110). -/
theorem State.advanceHour_hour {s : State} {a : Addr} (h : s.StoreWf) (ha : s.params.aHour = a) :
    (s.advanceHour b).reg a = packedByte (hourAfter (valueOf b s.draws)) := by
  subst ha
  exact (State.store_reg_self _ (by simpa using h) _ _).trans (hourByteAfter_eq_packedByte b s.draws)

end

/-- R110: accepted, the press writes the hour after the byte it read, whatever comes between. -/
theorem onHourButton_of_points {bd : State → Run Unit} {s s2 s3 s4 : State} {b : Byte} (hgate : gate bd s = .go true s2)
    (h3 : bd s2 = .go () s3) (hbus3 : s3.env.busAnswers = true) (hread : s3.reg s3.params.aHour = b)
    (h4 : bd s3.hourRead = .go () s4) (hbus4 : s4.env.busAnswers = true) :
    onHourButton bd s = .go () (s4.advanceHour b) := by
  have hv : (incHour (decodedValue b s4.draws)).toNat ≤ 99 := (incHour_le _).trans (by decide)
  have hbus5 : (decodedState b s4).env.busAnswers = true := by simpa using hbus4
  simp only [State.hourRead, hread] at h4
  simp [onHourButton, hgate, h3, Run.thenNext_eq, regRead_of_answers _ hbus3, hread, h4, storeEncoded_of_le hv _ _ hbus5,
    State.advanceHour, hourByteAfter]

/-- The state after a whole accepted hour press that nothing interrupts (R110). -/
def State.hourPressed (s : State) : State :=
  s.gated.hourRead.advanceHour (s.reg s.params.aHour)

@[simp] theorem State.hourPressed_params (s : State) : s.hourPressed.params = s.params := by simp [hourPressed]
@[simp] theorem State.hourPressed_env (s : State) : s.hourPressed.env = s.env := by simp [hourPressed]
@[simp] theorem State.hourPressed_lastAccepted (s : State) : s.hourPressed.lastAccepted = s.env.clock := by
  simp [hourPressed]
@[simp] theorem State.hourPressed_waiting (s : State) : s.hourPressed.waiting = s.waiting := by simp [hourPressed]
@[simp] theorem State.hourPressed_calls (s : State) : s.hourPressed.calls = s.calls ++
    [.millis s.env.clock, .regRead s.params.aHour (s.reg s.params.aHour),
      .regWrite s.params.aHour (hourByteAfter (s.reg s.params.aHour) s.draws)] := by simp [hourPressed]

theorem State.hourPressed_storeWf {s : State} (h : s.StoreWf) : s.hourPressed.StoreWf :=
  State.advanceHour_storeWf (s := s.gated.hourRead) _ h

theorem State.hourPressed_hour {s : State} (h : s.StoreWf) :
    s.hourPressed.reg s.params.aHour = packedByte (hourAfter (valueOf (s.reg s.params.aHour) s.draws)) :=
  State.advanceHour_hour (s := s.gated.hourRead) _ h rfl

theorem onHourButton_still (n : Nat) {s : State} (h : s.env.script = []) (hans : s.Answering)
    (hacc : 200 < (s.env.clock - s.lastAccepted).toNat) : onHourButton (boundary n) s = .go () s.hourPressed := by
  obtain ⟨hclock, hbus, -⟩ := hans
  exact onHourButton_of_points (s3 := s.gated) (s4 := s.gated.hourRead) (gate_still_accepts n h hclock hacc)
    (boundary_still n h) hbus rfl (boundary_still n h) hbus

theorem exec_onHourButton_of_go {s t : State} {n : Nat} (hn : s.env.script.length = n)
    (h : onHourButton (boundary n) s.enter = .go () t) : exec .onHourButton s = .next t := by
  simp [exec, execOnHourButton, hn, h]

/-! ### TICK, from what its points deliver -/

/-- The results of a snapshot of BCD hours and minutes, and that taking it leaves the registers (R116). -/
theorem showTime_of_packed {hb mb : Byte} (hh : Packed hb) (hm : Packed mb) (sb : Byte) (s : State) :
    ∃ t, showTime hb mb sb s = .go () t ∧ t.out.r0 = some (BitVec.ofNat 8 (packedNat hb)) ∧
      t.out.r1 = some (BitVec.ofNat 8 (packedNat mb)) ∧ ∀ a, t.reg a = s.reg a := by
  have hh' := (isBcd_iff_packed hb).mpr hh
  have hm' := (isBcd_iff_packed mb).mpr hm
  refine ⟨_, rfl, ?_, ?_, ?_⟩
  · simp only [State.drive_out, decodedValue_of_bcd hh']; rfl
  · simp only [State.drive_out, decodedValue_of_bcd hm']; rfl
  · simp

/-- R116: the snapshot shows each byte as it was when it was read, and taking it leaves the registers. -/
theorem tick_of_points {bd : State → Run Unit} {s s1 s2 s3 : State} {hb mb : Byte} (h1 : bd s.invertLed = .go () s1)
    (hbus1 : s1.env.busAnswers = true) (hhour : s1.reg s1.params.aHour = hb) (hh : Packed hb)
    (h2 : bd s1.hourRead = .go () s2) (hbus2 : s2.env.busAnswers = true) (hminute : s2.reg s2.params.aMin = mb)
    (hm : Packed mb) (h3 : bd (s2.log (.regRead s2.params.aMin mb)) = .go () s3) (hbus3 : s3.env.busAnswers = true) :
    ∃ t, tick bd s = .go () t ∧ t.out.r0 = some (BitVec.ofNat 8 (packedNat hb)) ∧
      t.out.r1 = some (BitVec.ofNat 8 (packedNat mb)) ∧ ∀ a, t.reg a = s3.reg a := by
  simp only [State.hourRead, hhour] at h2
  obtain ⟨t, hshow, hr⟩ := showTime_of_packed hh hm (s3.reg s3.params.aSec)
    (s3.log (.regRead s3.params.aSec (s3.reg s3.params.aSec)))
  refine ⟨t, ?_, hr⟩
  simp [tick, h1, Run.thenNext_eq, regRead_of_answers _ hbus1, hhour, h2, regRead_of_answers _ hbus2, hminute, h3,
    regRead_of_answers _ hbus3, hshow]

theorem exec_tick_of_go {s t : State} {n : Nat} (hn : s.env.script.length = n)
    (h : tick (boundary n) s.enter = .go () t) : exec .tick s = .next t := by
  simp [exec, execTick, hn, h]

/-! ### APPLY_EXTERNAL_TIME as far as its second write -/

/-- The state after the hour has been written (R105). -/
def State.hourSet (s : State) (a : Byte) : State :=
  (s.store s.params.aHour (bcdByte (normalizeHour a))).log (.regWrite s.params.aHour (bcdByte (normalizeHour a)))

/-- The state after the minute has been written (R105). -/
def State.minuteSet (s : State) (b : Byte) : State :=
  (s.store s.params.aMin (bcdByte b)).log (.regWrite s.params.aMin (bcdByte b))

section

variable {bd : State → Run Unit} {s s1 t : State} (a b c : Byte) (hbus : s.env.busAnswers = true)

include hbus

theorem applyTime_of_abandoned_first (h1 : bd (s.hourSet a) = .abandoned t) : applyTime bd a b c s = .abandoned t := by
  simp only [State.hourSet] at h1
  simp [applyTime, Run.thenNext_eq, storeEncoded_of_le (normalizeHour_le_99 a) _ _ hbus, h1]

theorem applyTime_of_abandoned_second {b : Byte} (hb : b.toNat ≤ 99) (h1 : bd (s.hourSet a) = .go () s1)
    (hbus1 : s1.env.busAnswers = true) (h2 : bd (s1.minuteSet b) = .abandoned t) : applyTime bd a b c s = .abandoned t := by
  simp only [State.hourSet, State.minuteSet] at h1 h2
  simp [applyTime, Run.thenNext_eq, storeEncoded_of_le (normalizeHour_le_99 a) _ _ hbus, h1,
    storeEncoded_of_le hb _ _ hbus1, h2]

end

end Sys2Proof.Machine
end

section
/-! PROOFS. The memory family: the register store read and written (20_memory.md), collaborators that are silent, and what
falls between two micro-steps in both interleavings. -/

namespace Sys2Proof.Machine

open Sys2Proof.Claims

/-! ### The register store -/

/-- Settles O32: a write is one store, and a read is one entry in the record of calls. -/
theorem registersReadAsLastWritten : Obligations.RegistersReadAsLastWritten := by
  intro s a b v hwf hbus
  have hread (u : State) (hu : u.env.busAnswers = true) (hv : u.reg a = v) :
      regRead a u = .go v (u.log (.regRead a v)) := by rw [regRead_of_answers a hu, hv]
  have hself := s.store_reg_self hwf a v
  exact ⟨_, _, _, regWrite_of_answers a v hbus, hread _ hbus hself, rfl, hread _ hbus hself, s.store_reg_of_ne v⟩

/-! ### Silent collaborators -/

/-- Settles O44: each operation's first call that has no step, after the micro-steps before it. -/
theorem silentCollaboratorsStopOperations : Obligations.SilentCollaboratorsStopOperations := by
  intro s hs
  refine ⟨fun i hi hclock => ?_, fun hbus => ?_, fun a b c hbus => ?_, fun hclock hacc => ?_⟩
  · obtain ⟨k, hk⟩ := exec_trigger hi
    rw [hk s, runTrigger_of_gate_fault (gate_of_silent (s := s.enter) _ hclock) k]
    rfl
  · have htick : tick (boundary s.env.script.length) s.enter = .fault (.stuck .bus s.enter.invertLed) := by
      simp [tick, boundary_still, hs, regRead_of_silent, hbus, Run.thenNext_eq]
    exact congrArg Run.finish htick
  · exact congrArg Run.finish (applyTime_of_silent (s := s.enter) _ a b c hbus)
  · have hgate := gate_still_accepts s.env.script.length (s := s.enter) hs hclock hacc
    refine ⟨fun hext => ?_, fun hext hbus => ?_, fun hbus i hi => ?_⟩
    · exact congrArg Run.finish (onExternalSync_of_silent _ (s := s.enter) hs hgate hext)
    · exact congrArg Run.finish (onExternalSync_of_silent_bus _ (s := s.enter) hs hgate hext hbus)
    · rcases hi with rfl | rfl
      · exact congrArg Run.finish (onHourButton_of_silent _ (s := s.enter) hs hgate hbus)
      · exact congrArg Run.finish (onMinuteButton_of_silent _ (s := s.enter) hs hgate hbus)

/-! ### Between two micro-steps, operations one at a time -/

/-- APPLY_EXTERNAL_TIME torn down or reset after its first write (R142, R150). -/
theorem exec_applyExternalTime_abandoned_first {s : State} {e : Event} (a b c : Byte) (hbus : s.env.busAnswers = true)
    (hs : s.env.script = [[e]]) (he : e.abandons = true) :
    exec (.applyExternalTime a b c) s = .next (((s.enter.hourSet a).setScript []).deliver e) := by
  have h1 := atomicBoundary_abandons (s := s.enter.hourSet a) hs he
  simp only [exec, execApplyExternalTime, applyTime_of_abandoned_first (s := s.enter) a b c hbus h1, Run.finish_abandoned]

/-- APPLY_EXTERNAL_TIME torn down or reset after its second write (R142, R150). -/
theorem exec_applyExternalTime_abandoned_second {s : State} {e : Event} (a c : Byte) {b : Byte} (hb : b.toNat ≤ 99)
    (hbus : s.env.busAnswers = true) (hs : s.env.script = [[], [e]]) (he : e.abandons = true) :
    exec (.applyExternalTime a b c) s =
      .next (((((s.enter.hourSet a).setScript [[e]]).minuteSet b).setScript []).deliver e) := by
  have h1 : atomicBoundary (s.enter.hourSet a) = .go () ((s.enter.hourSet a).setScript [[e]]) := boundary_emptySlot 0 hs
  have h2 := atomicBoundary_abandons (s := ((s.enter.hourSet a).setScript [[e]]).minuteSet b) rfl he
  simp only [exec, execApplyExternalTime, applyTime_of_abandoned_second (s := s.enter) a c hbus hb h1 hbus h2,
    Run.finish_abandoned]

/-- Settles O47: the event falls on the state its last write left, and a torn-down block's step runs nothing. -/
theorem teardownFallsBetweenWrites : Obligations.TeardownFallsBetweenWrites := by
  intro s one two a b c hb mb hbus hb99 ehb emb eone etwo
  have ehb' : hb = bcdByte (normalizeHour a) := by rw [ehb, ← toNat_normalizeHour]; rfl
  have emb' : mb = bcdByte b := emb
  subst ehb' emb' eone etwo
  refine ⟨fun hs => ?_, fun hs => ?_, fun hs => ?_, fun hs => ?_, fun hstop hs => ?_⟩
  · exact exec_applyExternalTime_abandoned_first a b c hbus hs rfl
  · exact exec_applyExternalTime_abandoned_second a c hb99 hbus hs rfl
  · exact exec_applyExternalTime_abandoned_first a b c hbus hs rfl
  · exact exec_applyExternalTime_abandoned_second a c hb99 hbus hs rfl
  · have harrive := State.arrive_still hs
    rw [step_of_stopped (by rw [harrive, hstop]), harrive]

/-- Settles O48: the press writes the hour after the byte it read, over whatever came between. -/
theorem rtcWriteInsideAPressIsLost : Obligations.RtcWriteInsideAPressIsLost := by
  intro s v ⟨hclock, hbus, _⟩ ha hrtc hwf hacc
  constructor
  · intro hs
    have hgate := gate_atomic_emptySlot 3 (s := s.enter) ha hs hclock hacc
    have hbefore := boundary_emptySlot 3 (s := s.enter.gated.setScript [[], [.rtcWrite .hour v]]) rfl
    have hafter := boundary_rtcWrite 3 (s := (s.enter.gated.setScript [[.rtcWrite .hour v]]).hourRead) ha hrtc rfl
    have hpress := onHourButton_of_points hgate hbefore hbus rfl hafter hbus
    exact ⟨_, exec_onHourButton_of_go (congrArg List.length hs) hpress,
      State.advanceHour_hour _ (State.store_wf _ hwf _ _) rfl⟩
  · intro hs
    have hgate := gate_atomic_emptySlot 2 (s := s.enter) ha hs hclock hacc
    have hbefore := boundary_rtcWrite 2 (s := s.enter.gated.setScript [[.rtcWrite .hour v]]) ha hrtc rfl
    have hread : ((s.enter.gated.setScript []).store s.params.aHour v).reg s.params.aHour = v :=
      State.store_reg_self _ hwf _ _
    have hafter := boundary_still 2 (s := ((s.enter.gated.setScript []).store s.params.aHour v).hourRead) rfl
    have hpress := onHourButton_of_points hgate hbefore hbus hread hafter hbus
    have hwf' : ((s.enter.gated.setScript []).store s.params.aHour v).hourRead.StoreWf := s.store_wf hwf _ _
    exact ⟨_, exec_onHourButton_of_go (congrArg List.length hs) hpress, State.advanceHour_hour _ hwf' rfl⟩

/-- Settles O50: the RTC's two stores fall after the hour has been read and before the minute is. -/
theorem snapshotCanBeTorn : Obligations.SnapshotCanBeTorn := by
  rintro s _ mb h _ hbus ha hrtc hwf ⟨hne, _⟩ hs rfl hh rfl hm
  have hfirst := boundary_emptySlot 2 (s := s.enter.invertLed) hs
  have hsecond := boundary_rtcWrite_two 2
    (s := (s.enter.invertLed.setScript [[.rtcWrite .hour h, .rtcWrite .minute mb]]).hourRead) ha hrtc rfl
  have hminute : ((s.store s.params.aHour h).store s.params.aMin mb).reg s.params.aMin = mb :=
    State.store_reg_self _ (s.store_wf hwf _ _) _ _
  have hhour : ((s.store s.params.aHour h).store s.params.aMin mb).reg s.params.aHour = h := by
    rw [State.store_reg_of_ne _ _ hne.symm, s.store_reg_self hwf]
  obtain ⟨t, htick, hr0, hr1, hreg⟩ :=
    tick_of_points hfirst hbus rfl hh hsecond hbus hminute hm (boundary_still 2 rfl) hbus
  exact ⟨t, exec_tick_of_go (congrArg List.length hs) htick, hr0, hr1, (hreg _).trans hhour⟩

/-! ### In the legacy interleaving -/

/-- Settles O51: the inner press writes between the outer one's read and write, and the outer one writes the hour after the
byte it read before. -/
theorem legacyInterleavingLosesAnUpdate : Obligations.LegacyInterleavingLosesAnUpdate := by
  intro s now hans ha hwf hs hacc hacc' hpacked
  have ⟨hclock, hbus, _⟩ := hans
  have hgate := gate_legacy_accepts (bd := boundary 4) (s := s.enter) hclock (boundary_emptySlot 4 hs) ha hacc
    (boundary_emptySlot 4 rfl)
  have hbefore := boundary_emptySlot 4
    (s := s.enter.gated.setScript [[], [.clock now, .request (.trigger .hourButton)]]) rfl
  have hinner := onHourButton_still 3 (s := (s.enter.gated.hourRead.setScript []).setClock now) rfl hans hacc'
  have hafter := boundary_clock_hourPress 3
    (s := (s.enter.gated.setScript [[.clock now, .request (.trigger .hourButton)]]).hourRead) ha rfl hinner
  have hpress := onHourButton_of_points hgate hbefore hbus rfl hafter (by simpa using hbus)
  have hwf' : ((s.enter.gated.hourRead.setScript []).setClock now).hourPressed.StoreWf := State.hourPressed_storeWf hwf
  refine ⟨_, exec_onHourButton_of_go (congrArg List.length hs) hpress, by simp, by simp, ?_⟩
  rw [← valueOf_of_packed hpacked]
  exact State.advanceHour_hour _ hwf' (by simp)

/-- Settles O52: the inner press falls after the outer one's comparison, so the outer one reads the hour it wrote. -/
theorem legacyInterleavingAcceptsTwice : Obligations.LegacyInterleavingAcceptsTwice := by
  intro s hans ha hwf hs hacc hpacked
  have ⟨hclock, hbus, _⟩ := hans
  have hwf' : (s.enter.asked.setScript []).StoreWf := hwf
  have hinner := onHourButton_still 1 (s := s.enter.asked.setScript []) rfl hans hacc
  have hpoint := boundary_hourPress 1 (s := s.enter.asked.setScript [[.request (.trigger .hourButton)]]) ha rfl hinner
  have hgate := gate_legacy_accepts (bd := boundary 2) (s := s.enter) hclock (boundary_emptySlot 2 hs) ha hacc hpoint
  have hstill (u : State) (hu : u.env = (s.enter.asked.setScript []).env) : boundary 2 u = .go () u :=
    boundary_still 2 (by rw [hu]; rfl)
  have hread : ((s.enter.asked.setScript []).hourPressed.setLast s.env.clock).reg s.params.aHour =
      packedByte (hourAfter (packedNat (s.reg s.params.aHour))) :=
    (State.hourPressed_hour hwf').trans
      (congrArg (fun v => packedByte (hourAfter v)) (valueOf_of_packed hpacked s.draws))
  have hpress := onHourButton_of_points hgate (hstill _ (by simp)) (by simpa using hbus) (by simpa using hread)
    (hstill _ (by simp)) (by simpa using hbus)
  have hwf'' : ((s.enter.asked.setScript []).hourPressed.setLast s.env.clock).hourRead.StoreWf :=
    State.hourPressed_storeWf hwf'
  have hhour := State.advanceHour_hour (packedByte (hourAfter (packedNat (s.reg s.params.aHour)))) hwf''
    (a := s.params.aHour) (by simp)
  rw [valueOf_packedByte ((hourAfter_le _).trans (by decide))] at hhour
  exact ⟨_, exec_onHourButton_of_go (congrArg List.length hs) hpress, by simp, by simp, hhour⟩

end Sys2Proof.Machine
end

section
/-! SUPPORT. The encoding family (30_encoding.md), its rules: an operation's op code and ports, the reserved op codes, and
the text form. -/

namespace Sys2Proof

/-! ### The command ports -/

theorem opcode_of_decode {x : Command} {i : Instr} (h : decodeCommand x = .ok i) : x.op = i.opcode := by
  unfold decodeCommand at h
  split at h <;> cases h <;> exact BitVec.eq_of_toNat_eq ‹_›

/-- What an operation decodes from is its encoding, once the ports its row does not list are at zero. -/
theorem canon_of_decode {x : Command} {i : Instr} (h : decodeCommand x = .ok i) : x.canon = encodeCommand i := by
  have hop := opcode_of_decode h
  unfold decodeCommand at h
  split at h <;> cases h <;>
    simp [Command.canon, listedBytes, listsTime, encodeCommand, Command.bare, Instr.opcode, hop]

/-- Values on unlisted ports are ignored (R56). -/
theorem decode_canon (x : Command) : decodeCommand x.canon = decodeCommand x := by
  have hop : x.canon.op = x.op := rfl
  unfold decodeCommand
  rw [hop]
  split <;> simp [Command.canon, listedBytes, listsTime, *]

theorem decode_encode_wf (i : Instr) : decodeCommand (encodeCommand i) = .ok i ∧ (encodeCommand i).wf = true := by
  cases i with
  | decode a => exact Laws.PortRoundTrip.decode a
  | encode a => exact Laws.PortRoundTrip.encode a
  | admitAt t => exact Laws.PortRoundTrip.admitAt t
  | incHour a => exact Laws.PortRoundTrip.incHour a
  | incMinute a b => exact Laws.PortRoundTrip.incMinute a b
  | normalize a => exact Laws.PortRoundTrip.normalize a
  | applyExternalTime a b c => exact Laws.PortRoundTrip.applyExternalTime a b c
  | onHourButton => exact Laws.PortRoundTrip.onHourButton
  | onMinuteButton => exact Laws.PortRoundTrip.onMinuteButton
  | onExternalSync => exact Laws.PortRoundTrip.onExternalSync
  | tick => exact Laws.PortRoundTrip.tick

/-- The reserved op codes are the ones from 0xB on (R59). -/
theorem decode_eq_error_iff (x : Command) : decodeCommand x = .error x.op ↔ 11 ≤ x.op.toNat := by
  unfold decodeCommand
  split <;> simp_all
  omega

/-! ### The text form -/

/-- The row a name stands for, which no operand has a say in (R62). -/
theorem row_of_mem {r : TextRow} (hr : r ∈ textRows) {name : String} (hname : name = r.mnemonic ∨ name = r.source)
    (operands : List Nat) : TextCommand.row ⟨name, operands⟩ = some r := by
  have hfind : ∀ q ∈ textRows, ∀ n ∈ [q.mnemonic, q.source],
      textRows.find? (fun p => p.mnemonic == n || p.source == n) = some q := by decide
  exact hfind r hr name (by simpa using hname)

/-- The operands fit the row of an operation: their count and the widths of its ports (R55, R56). -/
def Instr.Fits (i : Instr) (r : TextRow) : Prop :=
  i.operands.length = r.widths.length ∧ (i.operands.zip r.widths).all (fun p => decide (p.1 < 2 ^ p.2)) = true

theorem Instr.exists_row (i : Instr) : ∃ r ∈ textRows, r.mnemonic = i.mnemonic ∧ i.Fits r := by
  cases i <;> simp [textRows, mnemonic, Fits, operands, BitVec.isLt, -List.all_eq_true, -Nat.reducePow]

theorem Instr.fits_of_mem {i : Instr} {r : TextRow} (hr : r ∈ textRows) (hi : r.mnemonic = i.mnemonic) : i.Fits r := by
  obtain ⟨q, hq, hqi, hfits⟩ := i.exists_row
  have : some q = some r := (row_of_mem hq (.inl rfl) []).symm.trans (row_of_mem hr (.inl (hqi.trans hi.symm)) [])
  exact Option.some.inj this ▸ hfits

theorem instrOfMnemonic_operands (i : Instr) : instrOfMnemonic i.mnemonic i.operands = some i := by
  cases i <;> simp [instrOfMnemonic, Instr.mnemonic, Instr.operands]

/-- An operation's operands after either name of its row (R62). -/
theorem text_wf_parse {i : Instr} {r : TextRow} (hr : r ∈ textRows) (hi : r.mnemonic = i.mnemonic) {name : String}
    (hname : name = r.mnemonic ∨ name = r.source) :
    TextCommand.wf ⟨name, i.operands⟩ = true ∧ TextCommand.parse ⟨name, i.operands⟩ = some i := by
  have hrow := row_of_mem hr hname i.operands
  obtain ⟨hcount, hvalues⟩ := Instr.fits_of_mem hr hi
  have hwf : TextCommand.wf ⟨name, i.operands⟩ = true := by
    simp only [TextCommand.wf, TextCommand.nameKnown, TextCommand.countFits, TextCommand.valuesFit, hrow, hcount, hvalues]
    simp
  refine ⟨hwf, ?_⟩
  simp only [TextCommand.parse, hwf, if_true, hrow, hi, instrOfMnemonic_operands]

end Sys2Proof
end

section
/-! PROOFS. The encoding family: commands, op codes and text (30_encoding.md). -/

namespace Sys2Proof.Machine

open Sys2Proof.Claims

/-- Settles O1: with its unlisted ports at zero a command decodes as before, and is then the encoding it decodes from. -/
theorem commandPortsDecodeAndEncodeAgree : Obligations.CommandPortsDecodeAndEncodeAgree := by
  refine ⟨fun x i => ⟨canon_of_decode, fun h => ?_⟩, decode_encode_wf⟩
  rw [← decode_canon, h]
  exact (decode_encode_wf i).1

/-- A step that comes to run a command of a reserved op code is refused (R59, R133). -/
theorem step_of_reserved {s : State} {r : Request} {op : OpCode} (h : s.arrive.stopped = false)
    (hn : s.arrive.next? = some r) (hop : decodeCommand r.toCommand = .error op) : step s = .refused (.reservedOp op) := by
  simp [step, h, runWaiting, hn, runCommand, hop]

/-- Settles O2: the decoder has an arm for each op code up to 0xA, and a step that gets none is refused. -/
theorem reservedOpCodesAreRefused : Obligations.ReservedOpCodesAreRefused :=
  ⟨decode_eq_error_iff, fun _ _ h hn hop => step_of_reserved h hn ((decode_eq_error_iff _).mpr hop)⟩

/-- Settles O3: each word as the decoder reads it. -/
theorem writtenOutOpCodesDecode : Obligations.WrittenOutOpCodesDecode := by
  exact ⟨rfl, rfl, rfl, rfl, rfl, rfl, rfl, rfl⟩

/-- Settles O4: the row found by a name has the operation's mnemonic and fits its operands. -/
theorem textFormReadsBack : Obligations.TextFormReadsBack := by
  refine ⟨fun i => ?_, fun i r hr hi => (text_wf_parse hr hi (.inr rfl)).2⟩
  obtain ⟨r, hr, hi, -⟩ := i.exists_row
  exact text_wf_parse hr hi (.inl hi.symm)

end Sys2Proof.Machine
end

section
/-! PROOFS. The encoding family: the marker of the seconds register (30_encoding.md rule R53, 44_sync_adapter.md R107). -/

namespace Sys2Proof.Machine

/-- The seconds register carries its marker, in a canonical store under a configuration that does not change. -/
structure MarkerKept (p : Config.Params) (s : State) : Prop where
  params : s.params = p
  wf : s.StoreWf
  marked : s.reg p.aSec &&& Config.markerMask = Config.markerMask

section

variable {p : Config.Params} {s : State}

/-- Updates that leave the configuration and the registers keep it. -/
theorem MarkerKept.of_same {t : State} (h : MarkerKept p s) (hp : t.params = s.params) (hm : t.mem = s.mem) :
    MarkerKept p t where
  params := hp.trans h.params
  wf := by rw [State.StoreWf, hm]; exact h.wf
  marked := by rw [State.reg, hm]; exact h.marked

/-- A byte stored elsewhere leaves the marker where it is. -/
theorem MarkerKept.store_of_ne {a : Addr} (ha : a ≠ p.aSec) (v : Byte) (h : MarkerKept p s) :
    MarkerKept p (s.store a v) where
  params := h.params
  wf := s.store_wf h.wf a v
  marked := by rw [s.store_reg_of_ne v ha]; exact h.marked

/-- The seconds byte is stored with its marker (R105). -/
theorem MarkerKept.store_second (b : Byte) (h : MarkerKept p s) :
    MarkerKept p (s.store p.aSec (b ||| Config.markerMask)) where
  params := h.params
  wf := s.store_wf h.wf _ _
  marked := by
    rw [s.store_reg_self h.wf]
    ext i
    simp +contextual

end

theorem delivered_markerKept {p : Config.Params} (hq : p.envRtcWrites = false) :
    Delivered (fun _ => True) (MarkerKept p) where
  script _ _ _ _ h := ⟨h.of_same rfl rfl, fun _ _ => trivial⟩
  deliver s e _ h :=
    { params := (s.deliver_params e).trans h.params
      wf := State.deliver_storeWf e h.wf
      marked := by rw [State.deliver_reg e (by rw [State.Quiet, h.params, hq])]; exact h.marked }

theorem kept_markerKept {p : Config.Params} (hq : p.envRtcWrites = false) (hhour : p.aHour ≠ p.aSec)
    (hminute : p.aMin ≠ p.aSec) :
    Kept (fun _ => True) (fun _ => True) (MarkerKept p) fun _ => True where
  log _ _ _ h := h.of_same rfl rfl
  draw _ h := h.of_same rfl rfl
  drive _ _ _ h := h.of_same rfl rfl
  askTime _ _ h := h.of_same rfl rfl
  setLast _ _ _ h := h.of_same rfl rfl
  arrive := (delivered_markerKept hq).arrive
  small _ _ := trivial
  external _ _ _ := ⟨trivial, trivial⟩
  hour _ s v _ h := by rw [h.params]; exact h.store_of_ne hhour _
  minute _ s v _ _ h := by rw [h.params]; exact h.store_of_ne hminute _
  second _ s v _ _ h := by rw [h.params]; exact h.store_second _
  noClock _ _ _ := trivial
  noBus _ _ _ := trivial
  noTime _ _ _ := trivial
  outOfRange _ _ _ _ _ := trivial

/-- Settles O36: a store at the seconds register sets the marker, and every other store of a step goes elsewhere: under
P-QUIET the RTC makes none. -/
theorem stepKeepsTheSecondsMarker : Obligations.StepKeepsTheSecondsMarker := by
  rintro s t hwf ⟨-, hhour, hminute⟩ hq hm ht
  have h : MarkerKept s.params t :=
    (kept_markerKept hq hhour hminute).step (fun _ => trivial) (delivered_markerKept hq)
      (htake := fun _ h => h.of_same rfl rfl) (henter := fun _ h => h.of_same rfl rfl)
      (htaken := fun _ _ _ _ _ _ _ _ => ⟨trivial, trivial⟩) (hf := fun _ => trivial)
      (hl := fun _ h => h.of_same rfl rfl) ⟨rfl, hwf, hm⟩ ht
  rw [State.Marked, h.params]
  exact h.marked

end Sys2Proof.Machine
end

section
/-! SUPPORT. The encoding family, its rules about result ports (30_encoding.md rules R54, R57): what DECODE answers in the
rules' arithmetic, how an operation ends that something may abandon, and that only teardown and reset abandon one. -/

namespace Sys2Proof.Machine

open Sys2Proof.Claims

/-! ### DECODE in the rules' arithmetic -/

theorem decodedValue_eq (b : Byte) (n : Nat) : decodedValue b n = BitVec.ofNat 8 (valueOf b n) := by
  rw [← toNat_decodedValue, BitVec.ofNat_toNat, BitVec.setWidth_eq]

theorem decodedState_eq (b : Byte) (s : State) : decodedState b s = { s with draws := drawsAfter b s.draws } := by
  by_cases h : Packed b
  · rw [decodedState_of_bcd ((isBcd_iff_packed b).mpr h), drawsAfter, if_pos h]
  · rw [decodedState, if_neg (mt (isBcd_iff_packed b).mp h), drawsAfter, if_neg h, State.draw]

/-- The results of TICK, and the free values its three decodes use up (R54, R116). -/
theorem showTime_eq (hb mb sb : Byte) (s : State) {n1 n2 : Nat} (h1 : n1 = drawsAfter hb s.draws)
    (h2 : n2 = drawsAfter mb n1) :
    showTime hb mb sb s = .go () { s with
      draws := drawsAfter (sb &&& 0x7F#8) n2
      out := { r0 := some (BitVec.ofNat 8 (valueOf hb s.draws)), r1 := some (BitVec.ofNat 8 (valueOf mb n1)),
               r2 := some (BitVec.ofNat 8 (valueOf (sb &&& 0x7F#8) n2)), flag := none, led := some s.led } } := by
  subst h1 h2
  simp only [showTime, decodedState_eq, decodedValue_eq]
  rfl

/-- TICK while the environment does nothing and the bus answers. -/
theorem tick_still (n : Nat) {s : State} (h : s.env.script = []) (hbus : s.env.busAnswers = true) :
    tick (boundary n) s =
      showTime (s.reg s.params.aHour) (s.reg s.params.aMin) (s.reg s.params.aSec)
        (((s.invertLed.log (.regRead s.params.aHour (s.reg s.params.aHour))).log
          (.regRead s.params.aMin (s.reg s.params.aMin))).log (.regRead s.params.aSec (s.reg s.params.aSec))) := by
  simp [tick, Run.thenNext_eq, boundary_still, regRead_of_answers, h, hbus]

/-! ### One event -/

/-- An event drives no result port, and a reset clears them (R150). -/
theorem State.deliver_out (s : State) (e : Event) : (s.deliver e).out = s.out ∨ (s.deliver e).out = noResult := by
  cases e with
  | rtcWrite f v => rcases s.deliver_rtcWrite f v with h | h <;> simp [h]
  | reset => exact .inr rfl
  | _ => exact .inl rfl

/-! ### Where a run ends -/

/-- A run that does not fault ends in a state of `P`, or is abandoned in one of `B`. -/
def Run.Ends {α : Type} (P B : State → Prop) (r : Run α) : Prop :=
  match r with
  | .go _ s => P s
  | .abandoned s => B s
  | .fault _ => True

section

variable {N P B : State → Prop}

theorem Run.Ends.andThen {α β : Type} {r : Run α} {f : α → State → Run β} (hr : r.Ends N B)
    (hf : ∀ a s, N s → (f a s).Ends P B) : (r.andThen f).Ends P B := by
  cases r with
  | go a s => exact hf a s hr
  | abandoned s => exact hr
  | fault x => trivial

theorem Run.Ends.thenNext {α β : Type} {bd : State → Run Unit} {r : Run α} {f : α → State → Run β}
    (hbd : ∀ s, N s → (bd s).Ends N B) (hr : r.Ends N B) (hf : ∀ a s, N s → (f a s).Ends P B) :
    (r.thenNext bd f).Ends P B :=
  hr.andThen fun a s hs => (hbd s hs).andThen fun _ s' hs' => hf a s' hs'

theorem Run.Post.ends {α : Type} {Q : α → Prop} {F : Fault → Prop} {r : Run α} (hr : r.Post Q P F) : r.Ends P P := by
  cases r with
  | go a s => exact hr.2
  | abandoned s => exact hr
  | fault x => trivial

theorem Run.Ends.of_finish {r : Run Unit} {t : State} (hr : r.Ends P B) (ht : r.finish = .next t) : B t ∨ P t := by
  cases r with
  | go a s => cases ht; exact .inr hr
  | abandoned s => cases ht; exact .inl hr
  | fault x => cases ht

/-- The results of TICK are on their four ports, the indicator's as it stands (R57). -/
def State.ShowsTime (t : State) : Prop :=
  ∃ h m sec, t.out = { r0 := some h, r1 := some m, r2 := some sec, flag := none, led := some t.led }

/-- TICK ends with its results driven, where it is not abandoned at one of its points (R116). -/
theorem tick_ends {bd : State → Run Unit} (hbd : ∀ s, N s → (bd s).Ends N B) (hlog : ∀ s x, N s → N (s.log x)) {s : State}
    (h : N s.invertLed) : (tick bd s).Ends State.ShowsTime B := by
  have hread (a : Addr) (u : State) (hu : N u) : (regRead a u).Ends N B := by
    unfold regRead
    split
    · exact hlog _ _ hu
    · trivial
  exact (hbd _ h).andThen fun _ s1 h1 => (hread _ s1 h1).thenNext hbd fun _ s2 h2 => (hread _ s2 h2).thenNext hbd
    fun _ s3 h3 => (hread _ s3 h3).andThen fun _ _ _ => ⟨_, _, _, rfl⟩

end

/-! ### A script without teardown and reset -/

/-- The run is not abandoned, and no event to come abandons an operation. -/
abbrev Run.Completes {α : Type} (r : Run α) : Prop := r.Ends State.NoAbandon fun _ => False

theorem State.NoAbandon.decodedState {s : State} (b : Byte) (h : s.NoAbandon) : (decodedState b s).NoAbandon := by
  rwa [State.NoAbandon, decodedState_env]

/-- A collaborator is asked and answers, or has no step (R31, R134). -/
theorem ask_completes {α : Type} {s : State} {v : α} {x : Call} {f : Fault} (answers : Bool) (h : s.NoAbandon) :
    (if answers then Run.go v (s.log x) else .fault f).Completes := by
  split
  · exact h
  · trivial

theorem millis_completes {s : State} (h : s.NoAbandon) : (millis s).Completes := ask_completes s.env.clockAnswers h

theorem regRead_completes (a : Addr) {s : State} (h : s.NoAbandon) : (regRead a s).Completes :=
  ask_completes s.env.busAnswers h

theorem extHours_completes {s : State} (h : s.NoAbandon) : (extHours s).Completes := ask_completes s.env.extAnswers h

theorem extMinutes_completes {s : State} (h : s.NoAbandon) : (extMinutes s).Completes := ask_completes s.env.extAnswers h

theorem extSeconds_completes {s : State} (h : s.NoAbandon) : (extSeconds s).Completes := ask_completes s.env.extAnswers h

theorem storeEncoded_completes (a : Addr) (v mark : Byte) {s : State} (h : s.NoAbandon) :
    (storeEncoded a v mark s).Completes := by
  by_cases hv : v.toNat ≤ 99
  · rw [storeEncoded, encoded_of_le hv]
    exact ask_completes (s := s.store a (bcdByte v ||| mark)) s.env.busAnswers h
  · rw [storeEncoded_of_gt (Nat.lt_of_not_le hv)]
    trivial

section

variable {bd : State → Run Unit} (hbd : ∀ s, s.NoAbandon → (bd s).Completes) {s : State} (h : s.NoAbandon)

include hbd h

theorem gate_completes : (gate bd s).Completes := by
  refine (millis_completes h).thenNext hbd fun t s' h' => ?_
  unfold admitStep
  split
  · exact h'
  · exact (hbd s' h').andThen fun _ _ hs => hs

theorem applyTime_completes (a b c : Byte) : (applyTime bd a b c s).Completes :=
  (storeEncoded_completes _ _ _ h).thenNext hbd fun _ _ h1 => (storeEncoded_completes _ _ _ h1).thenNext hbd
    fun _ _ h2 => storeEncoded_completes _ _ _ h2

theorem onHourButton_completes : (onHourButton bd s).Completes := by
  refine (gate_completes hbd h).andThen fun ok s2 h2 => ?_
  split
  · exact (hbd s2 h2).andThen fun _ s3 h3 =>
      (regRead_completes _ h3).thenNext hbd fun hb s4 h4 =>
        storeEncoded_completes _ _ _ (h4.decodedState hb)
  · exact h2

theorem onMinuteButton_completes : (onMinuteButton bd s).Completes := by
  refine (gate_completes hbd h).andThen fun ok s2 h2 => ?_
  split
  · refine (hbd s2 h2).andThen fun _ s3 h3 =>
      (regRead_completes _ h3).thenNext hbd fun mb s4 h4 =>
      (regRead_completes _ h4).thenNext hbd fun hb s5 h5 =>
        (storeEncoded_completes _ _ _ ((h5.decodedState mb).decodedState hb)).andThen fun _ s6 h6 => ?_
    split
    · exact (hbd s6 h6).andThen fun _ _ h7 => storeEncoded_completes _ _ _ h7
    · exact h6
  · exact h2

theorem onExternalSync_completes : (onExternalSync bd s).Completes := by
  refine (gate_completes hbd h).andThen fun ok s2 h2 => ?_
  split
  · exact (hbd s2 h2).andThen fun _ s3 h3 =>
      (extHours_completes h3).thenNext hbd fun _ s4 h4 =>
      (extMinutes_completes h4).thenNext hbd fun _ s5 h5 =>
      (extSeconds_completes h5).thenNext hbd fun _ _ h6 =>
        applyTime_completes hbd h6 _ _ _
  · exact h2

theorem runTrigger_completes (k : Trigger) : (runTrigger bd k s).Completes := by
  cases k with
  | hourButton => exact onHourButton_completes hbd h
  | minuteButton => exact onMinuteButton_completes hbd h
  | externalSync => exact onExternalSync_completes hbd h

end

theorem delivered_noAbandon : Delivered (·.abandons = false) State.NoAbandon where
  script s slot rest hs h := by
    rw [State.NoAbandon, hs] at h
    exact ⟨fun sl hsl => h sl (List.mem_cons_of_mem _ hsl), by simpa using h slot List.mem_cons_self⟩
  deliver s e _ h := by rwa [State.NoAbandon, State.deliver_script]

theorem atomicBoundary_completes {s : State} (h : s.NoAbandon) : (atomicBoundary s).Completes := by
  have hslot : s.slotAbandons = false := by
    unfold State.slotAbandons
    split
    · rfl
    · exact h _ (by simp [*])
  simp only [atomicBoundary, hslot]
  exact delivered_noAbandon.arrive s h

/-- In the legacy interleaving a slot runs trigger entry points, and goes on where each of them completes (R40). -/
theorem deliverPreempt_completes {run : Trigger → State → Run Unit}
    (hrun : ∀ k s, s.NoAbandon → (run k s).Completes) (es : List Event) {ab : Bool} {s : State} (hab : ab = false)
    (hes : ∀ e ∈ es, e.abandons = false) (h : s.NoAbandon) :
    ((deliverPreempt run es ab s).andThen fun ab s' => if ab then .abandoned s' else .go () s').Completes := by
  fun_induction deliverPreempt run es ab s with
  | case1 ab s => subst hab; exact h
  | case2 k es s u s' hr ih =>
    have := hrun k s h
    rw [hr] at this
    exact ih rfl (fun e he => hes e (List.mem_cons_of_mem _ he)) this
  | case3 k es s s' hr ih =>
    have := hrun k s h
    rw [hr] at this
    exact this.elim
  | case4 k es s f hr => trivial
  | case5 e es ab s _ ih =>
    have he := hes e List.mem_cons_self
    exact ih (by rw [hab, he]; rfl) (fun e' he' => hes e' (List.mem_cons_of_mem _ he')) (delivered_noAbandon.deliver s e he h)

/-- Where nothing to come abandons an operation, no point between two micro-steps does, in both interleavings. -/
theorem boundary_completes (n : Nat) {s : State} (h : s.NoAbandon) : (boundary n s).Completes := by
  induction n generalizing s with
  | zero => exact atomicBoundary_completes h
  | succ n ih =>
    simp only [boundary]
    split
    · exact atomicBoundary_completes h
    · unfold preemptBoundary
      split
      · exact h
      · rename_i slot rest hs
        obtain ⟨hrest, hslot⟩ := delivered_noAbandon.script s slot rest hs h
        exact deliverPreempt_completes (fun k _ hs' => runTrigger_completes (fun _ => ih) hs' k) slot rfl hslot hrest

end Sys2Proof.Machine
end

section
/-! PROOFS. The encoding family: the result ports of TICK and of the other sequenced operations. -/

namespace Sys2Proof.Machine

open Sys2Proof.Claims

/-- Settles O30: three reads of one still state, then their decodes in the same order. -/
theorem tickShowsTheRegisters : Obligations.TickShowsTheRegisters := by
  rintro s _ _ _ n1 n2 h hbus rfl rfl rfl hn1 hn2
  have htick := (tick_still 0 (s := s.enter) h hbus).trans (showTime_eq _ _ _ _ hn1 hn2)
  exact exec_tick_of_go (congrArg List.length h) htick

theorem delivered_noResult : Delivered (fun _ => True) (·.out = noResult) where
  script _ _ _ _ h := ⟨h, fun _ _ => trivial⟩
  deliver s e _ h := (s.deliver_out e).elim (·.trans h) id

theorem kept_noResult : Kept (· ≠ .results) (fun _ => True) (·.out = noResult) fun _ => True where
  log _ _ _ h := h
  draw _ h := h
  drive hw := absurd rfl hw
  askTime _ _ h := h
  setLast _ _ _ h := h
  arrive := delivered_noResult.arrive
  small _ _ := trivial
  external _ _ _ := ⟨trivial, trivial⟩
  hour _ _ _ _ h := h
  minute _ _ _ _ _ h := h
  second _ _ _ _ _ h := h
  noClock _ _ _ := trivial
  noBus _ _ _ := trivial
  noTime _ _ _ := trivial
  outOfRange _ _ _ _ _ := trivial

/-- A trigger entry point may run at a point, and it drives nothing (R40, R57). -/
theorem interleaved_noResult : Interleaved (· ≠ .results) (·.out = noResult) :=
  .inr ⟨by decide, _, delivered_noResult⟩

theorem exec_out {i : Instr} {s t : State} (hi : .results ∉ effectsOf i) (ht : exec i s = .next t) : t.out = noResult := by
  have hpost := kept_noResult.exec_post (i := i) (s := s) (fun e he h => hi (h ▸ he)) interleaved_noResult
    (fun _ _ _ _ => ⟨trivial, trivial⟩) (fun _ _ _ => trivial) (fun _ => rfl) rfl
  rwa [ht] at hpost

theorem execTick_out {s t : State} (ht : exec .tick s = .next t) : t.out = noResult ∨ t.ShowsTime :=
  (tick_ends (fun u hu => (kept_noResult.boundary interleaved_noResult _ u hu).ends) (fun _ _ h => h)
    (s := s.enter) rfl).of_finish ht

theorem execTick_showsTime {s t : State} (hs : s.NoAbandon) (ht : exec .tick s = .next t) : t.ShowsTime :=
  ((tick_ends (fun _ => boundary_completes _) (fun _ _ h => h) (s := s.enter) hs).of_finish ht).resolve_left id

/-- Settles O41: only TICK's last micro-step drives results, all four at once, and only an abandoned TICK does not reach
it. -/
theorem sequencedOperationsDriveOnlyTheirResults : Obligations.SequencedOperationsDriveOnlyTheirResults := by
  intro i s t ht
  refine ⟨fun hi => exec_out ?_ ht, ?_, ?_⟩
  · have htriggers : ∀ j ∈ triggerInstrs, .results ∉ effectsOf j := by decide
    rcases hi with hi | ⟨a, b, c, rfl⟩
    · exact htriggers i hi
    · simp [effectsOf]
  · rintro rfl
    exact execTick_out ht
  · rintro rfl hs
    exact execTick_showsTime hs ht

end Sys2Proof.Machine
end

section
/-! SUPPORT. The codec family (40_codec.md), its rules: what DECODE and ENCODE answer as commands, in the rules' arithmetic,
and where the encode fault can come from. -/

namespace Sys2Proof.Machine

open Sys2Proof.Claims

/-! ### The two operations -/

/-- DECODE drives `r0` with the integer its byte stands for, or with a free value, which it uses up (R70, R71). -/
theorem exec_decode (b : Byte) (s : State) :
    exec (.decode b) s =
      .next { s with out := onlyR0 (valueOf b s.draws), calls := [], draws := drawsAfter b s.draws } := by
  rw [exec, execDecode, decodedState_eq, decodedValue_eq]
  rfl

theorem exec_decode_of_packed {b : Byte} (h : Packed b) (s : State) :
    exec (.decode b) s = .next { s with out := onlyR0 (packedNat b), calls := [] } := by
  rw [exec_decode, valueOf_of_packed h, drawsAfter, if_pos h]

theorem exec_decode_of_not_packed {b : Byte} (h : ¬ Packed b) (s : State) :
    exec (.decode b) s =
      .next { s with out := onlyR0 (Config.freeByte s.draws).toNat, calls := [], draws := s.draws + 1 } := by
  rw [exec_decode, valueOf, if_neg h, drawsAfter, if_neg h]

theorem exec_encode_of_le {v : Byte} (h : v.toNat ≤ 99) (s : State) :
    exec (.encode v) s = .next { s with out := onlyR0 (16 * (v.toNat / 10) + v.toNat % 10), calls := [] } := by
  rw [exec, execEncode, encoded_of_le h]
  rfl

theorem exec_encode_of_gt {v : Byte} (h : 99 < v.toNat) (s : State) :
    exec (.encode v) s = .fault (.outOfRangeEncode { s with out := noResult, calls := [] }) := by
  rw [exec, execEncode, encoded_of_gt h]
  rfl

/-- ENCODE answers a next state up to 99 only, with the byte of two digits on `r0` (R72, R73). -/
theorem exec_encode_next {v : Byte} {s t : State} (h : exec (.encode v) s = .next t) :
    v.toNat ≤ 99 ∧ t.out.r0 = some (packedByte v.toNat) := by
  by_cases hv : v.toNat ≤ 99
  · rw [exec_encode_of_le hv] at h
    cases h
    exact ⟨hv, rfl⟩
  · rw [exec_encode_of_gt (Nat.lt_of_not_le hv)] at h
    cases h

/-! ### Integers up to 99 and BCD bytes -/

theorem packed_packedByte {v : Byte} (h : v.toNat ≤ 99) : Packed (packedByte v.toNat) :=
  (isBcd_iff_packed _).mp (bcdByte_isBcd h)

theorem packedNat_le {b : Byte} (h : Packed b) : packedNat b ≤ 99 := by
  obtain ⟨htens, hones⟩ := h
  simp only [packedNat]; omega

theorem toNat_ofNat_packedNat {b : Byte} (h : Packed b) : (BitVec.ofNat 8 (packedNat b)).toNat = packedNat b :=
  Nat.mod_eq_of_lt ((packedNat_le h).trans_lt (by decide))

/-- The digits of the integer a BCD byte stands for are the byte's nibbles (R74, the converse). -/
theorem packedByte_packedNat {b : Byte} (h : Packed b) : packedByte (packedNat b) = b := by
  obtain ⟨htens, hones⟩ := h
  apply BitVec.eq_of_toNat_eq
  simp only [packedByte, packedNat, BitVec.toNat_ofNat]
  omega

/-- Reading back what was written from digits tells the integers apart (R74). -/
theorem packedByte_inj_of_le {x y : Byte} (hx : x.toNat ≤ 99) (hy : y.toNat ≤ 99)
    (h : packedByte x.toNat = packedByte y.toNat) : x = y := by
  apply BitVec.eq_of_toNat_eq
  rw [← valueOf_packedByte hx 0, h, valueOf_packedByte hy 0]

/-! ### The encode fault -/

/-- Only ON_EXTERNAL_SYNC asks the time source (R114). -/
theorem getters_not_mem_effectsOf {i : Instr} (h : i ≠ .onExternalSync) : .getters ∉ effectsOf i := by
  cases i with
  | onExternalSync => exact absurd rfl h
  | _ => simp [effectsOf]

/-- The fault is not that of an encode above 99. -/
def Fault.NotEncode (f : Fault) : Prop := ∀ l, f ≠ .outOfRangeEncode l

/-- While the time source is not asked, no integer above 99 is stored, if none was handed over (R106, R131). -/
theorem kept_notEncode :
    Kept (· ≠ .getters) (·.toNat ≤ 99) (fun s => s.params.atomicOps = true) Fault.NotEncode where
  log _ _ _ h := h
  draw _ h := h
  drive _ _ _ h := h
  askTime _ _ h := h
  setLast _ _ _ h := h
  arrive s h := by rwa [State.arrive_params]
  small _ hv := hv.trans (by decide)
  external hw := absurd rfl hw
  hour _ _ _ _ h := h
  minute _ _ _ _ _ h := h
  second _ _ _ _ _ h := h
  noClock _ _ _ _ := Fault.noConfusion
  noBus _ _ _ _ := Fault.noConfusion
  noTime _ _ _ _ := Fault.noConfusion
  outOfRange _ _ _ hle hge := absurd hle (Nat.not_le.mpr hge)

/-- Running alone, an operation that asks no time source and is handed no integer above 99 to encode has no encode fault. -/
theorem exec_ne_outOfRangeEncode {i : Instr} {s : State} (ha : s.params.atomicOps = true) (hsync : i ≠ .onExternalSync)
    (hencode : ∀ a, i = .encode a → a.toNat ≤ 99)
    (happly : ∀ a b c, i = .applyExternalTime a b c → b.toNat ≤ 99 ∧ c.toNat ≤ 99) (l : State) :
    exec i s ≠ .fault (.outOfRangeEncode l) := by
  intro hfault
  have hpost := kept_notEncode.exec_post (i := i) (s := s) (fun e he hg => getters_not_mem_effectsOf hsync (hg ▸ he))
    (.inl fun _ h => h) happly (fun a hi hge => absurd (hencode a hi) (Nat.not_le.mpr hge)) (fun _ => ha) ha
  rw [hfault] at hpost
  exact hpost l rfl

theorem kept_true : Kept (fun _ => True) (fun _ => True) (fun _ => True) fun _ => True :=
  Kept.ofUpdates (log := fun _ _ _ h => h) (draw := fun _ h => h) (drive := fun _ _ h => h)
    (askTime := fun _ _ h => h) (setLast := fun _ _ _ h => h) (arrive := fun _ h => h) (store := fun _ _ _ _ h => h)

theorem delivered_true : Delivered (fun _ => True) fun _ => True where
  script _ _ _ _ h := ⟨h, fun _ _ => trivial⟩
  deliver _ _ _ h := h

/-- No operation is refused, in both interleavings (R133). -/
theorem exec_ne_refused (i : Instr) (s : State) (r : Refusal) : exec i s ≠ .refused r := by
  intro hrefused
  have hpost := kept_true.exec_post (i := i) (s := s) (fun _ _ => trivial) (.inr ⟨fun _ _ => trivial, _, delivered_true⟩)
    (fun _ _ _ _ => ⟨trivial, trivial⟩) (fun _ _ _ => trivial) (fun _ => trivial) trivial
  rw [hrefused] at hpost
  exact hpost

end Sys2Proof.Machine
end

section
/-! PROOFS. The codec family: DECODE, ENCODE, their round trips, and the encode fault (40_codec.md). -/

namespace Sys2Proof.Machine

open Sys2Proof.Claims

/-- Settles O13: an integer up to 99 and its BCD byte determine each other, and the two operations answer them. -/
theorem codecRoundTrips : Obligations.CodecRoundTrips := by
  refine ⟨fun s x hx => ?_, fun s b hb => ?_, fun s x y t u ht hu hout => ?_, fun s x => ?_, fun s b hb => ?_⟩
  · refine ⟨_, _, _, exec_encode_of_le hx s, rfl, packed_packedByte hx, exec_decode _ _, ?_⟩
    change some (BitVec.ofNat 8 (valueOf (packedByte x.toNat) s.draws)) = some x
    rw [valueOf_packedByte hx, BitVec.ofNat_toNat, BitVec.setWidth_eq]
  · have hvalue := toNat_ofNat_packedNat hb
    have hle := hvalue.trans_le (packedNat_le hb)
    refine ⟨_, _, _, exec_decode_of_packed hb s, rfl, hle, exec_encode_of_le hle _, ?_⟩
    change some (packedByte (BitVec.ofNat 8 (packedNat b)).toNat) = some b
    rw [hvalue, packedByte_packedNat hb]
  · obtain ⟨hx, hxout⟩ := exec_encode_next ht
    obtain ⟨hy, hyout⟩ := exec_encode_next hu
    rw [hxout, hyout] at hout
    exact packedByte_inj_of_le hx hy (Option.some.inj hout)
  · exact ⟨fun ⟨_, ht⟩ => (exec_encode_next ht).1, fun hx => ⟨_, exec_encode_of_le hx s⟩⟩
  · refine ⟨_, exec_decode_of_not_packed hb s, ?_⟩
    change some (BitVec.ofNat 8 (Config.freeByte s.draws).toNat) = _
    rw [BitVec.ofNat_toNat, BitVec.setWidth_eq]

/-- Settles O43: an hour to be stored is at most 23 and an incremented minute at most 59, so an integer above 99 to encode
comes from an operand or from the time source. -/
theorem onlyThreeOperationsCanFaultInEncode : Obligations.OnlyThreeOperationsCanFaultInEncode := by
  refine fun i s => ⟨fun l ha hfault => ?_, exec_ne_refused i s⟩
  by_contra hother
  simp only [not_or, not_exists, not_and, Nat.not_le] at hother
  obtain ⟨hsync, hencode, happly⟩ := hother
  exact exec_ne_outOfRangeEncode ha hsync (fun a hi => Nat.le_of_lt_succ (hencode a hi))
    (fun a b c hi => (happly a b c hi).imp Nat.le_of_lt_succ Nat.le_of_lt_succ) l hfault

/-- Settles O9: op code 0 has the decoder's first arm, and a BCD byte uses up no free value. -/
theorem decodeOfBcdByte : Obligations.DecodeOfBcdByte :=
  ⟨fun x h => by simp [decodeCommand, h], fun s _ ha => exec_decode_of_packed ha s⟩

/-- Settles O10: a non-BCD byte uses up the next free value. -/
theorem decodeOfNonBcdByteIsFree : Obligations.DecodeOfNonBcdByteIsFree :=
  fun s _ ha => exec_decode_of_not_packed ha s

/-- Settles O11: up to 99 both digits fit a nibble. -/
theorem encodeOfIntegerUpTo99 : Obligations.EncodeOfIntegerUpTo99 :=
  ⟨fun x h => by simp [decodeCommand, h], fun _ => packed_packedByte, fun s _ ha => exec_encode_of_le ha s⟩

/-- Settles O12: above 99 the encode faults before a result is driven. -/
theorem encodeAbove99IsAFault : Obligations.EncodeAbove99IsAFault :=
  fun s _ ha => exec_encode_of_gt ha s

end Sys2Proof.Machine
end

section
/-! SUPPORT. The debounce family (41_debounce.md), its rules: ADMIT as a command, and a trigger entry point that the
environment leaves alone, suppressed or accepted. -/

namespace Sys2Proof.Machine

open Sys2Proof.Claims

/-! ### ADMIT -/

/-- The gate accepts strictly above 200, by the wrap-around difference (R80, R81). -/
theorem flagBit_accepted (now last : Time) :
    flagBit (accepted now last) = if 200 < (now - last).toNat then 1#1 else 0#1 := by
  unfold accepted elapsed Config.tRefract
  generalize (now - last).toNat = d
  by_cases h : 200 < d <;> simp [flagBit, h]

/-- ADMIT moves the stored time, drives the flag, and changes nothing else (R80). -/
theorem exec_admitAt (t : Time) (s : State) :
    exec (.admitAt t) s = .next { s with
      lastAccepted := t
      calls := []
      out := { noResult with flag := some (if 200 < (t - s.lastAccepted).toNat then 1#1 else 0#1) } } := by
  rw [← flagBit_accepted]
  rfl

theorem exec_admitAt_flag {t : Time} {s u : State} (h : exec (.admitAt t) s = .next u) :
    (u.out.flag = some 1#1 ↔ 200 < (t - s.lastAccepted).toNat) ∧
    (u.out.flag = some 0#1 ↔ (t - s.lastAccepted).toNat ≤ 200) := by
  rw [exec_admitAt] at h
  cases h
  generalize (t - s.lastAccepted).toNat = d
  by_cases hlt : 200 < d
  · simp [hlt]
  · simp [hlt, Nat.le_of_not_lt hlt]

theorem exec_admitAt_lastAccepted {t : Time} {s u : State} (h : exec (.admitAt t) s = .next u) : u.lastAccepted = t := by
  rw [exec_admitAt] at h
  cases h
  rfl

/-- The first ADMIT of a sequence answers by its distance to the stored time, and the others follow from its own time. -/
theorem admitFlags_cons (s : State) (t : Time) : ∃ u : State, u.lastAccepted = t ∧ ∀ ts, admitFlags s (t :: ts) =
    some (if 200 < (elapsed t s.lastAccepted).toNat then 1#1 else 0#1) :: admitFlags u ts :=
  ⟨_, exec_admitAt_lastAccepted (exec_admitAt t s), fun ts => by rw [admitFlags, exec_admitAt]; rfl⟩

/-- The wrap-around difference of two times in the rule's arithmetic (R81). -/
theorem toNat_time_sub (now last : Time) : (now - last).toNat = (now.toNat + 2 ^ 32 - last.toNat) % 2 ^ 32 := by
  rw [BitVec.toNat_sub]
  omega

/-! ### A suppressed trigger -/

theorem gate_still_suppresses (n : Nat) {s : State} (h : s.env.script = []) (hclock : s.env.clockAnswers = true)
    (hsup : (s.env.clock - s.lastAccepted).toNat ≤ 200) : gate (boundary n) s = .go false s.gated := by
  have hacc : accepted s.env.clock s.lastAccepted = false := by simpa [accepted, elapsed, Config.tRefract] using hsup
  rw [gate_still n h hclock, hacc]
  rfl

/-- Suppressed, every trigger entry point ends with the gate (R115). -/
theorem runTrigger_of_suppressed {bd : State → Run Unit} {s s2 : State} (h : gate bd s = .go false s2) (k : Trigger) :
    runTrigger bd k s = .go () s2 := by
  cases k <;> simp [runTrigger, onHourButton, onMinuteButton, onExternalSync, h]

theorem exec_trigger_of_suppressed {i : Instr} {s : State} (hi : i ∈ triggerInstrs) (hs : s.env.script = [])
    (hclock : s.env.clockAnswers = true) (hsup : (s.env.clock - s.lastAccepted).toNat ≤ 200) :
    exec i s = .next s.enter.gated := by
  obtain ⟨k, hk⟩ := exec_trigger hi
  rw [hk, runTrigger_of_suppressed (gate_still_suppresses _ (s := s.enter) hs hclock hsup)]
  rfl

/-! ### An accepted trigger -/

/-- The last call was a register write. -/
def State.HasWritten (s : State) : Prop := ∃ a v, s.calls.getLast? = some (.regWrite a v)

/-- The run does not go to its end without a register write as its last call. -/
abbrev Run.EndsWritten (r : Run Unit) : Prop := r.Ends State.HasWritten fun _ => True

theorem endsWritten_andThen {α : Type} (r : Run α) {f : α → State → Run Unit} (hf : ∀ a s, (f a s).EndsWritten) :
    (r.andThen f).EndsWritten := by
  cases r with
  | go a s => exact hf a s
  | abandoned s => trivial
  | fault x => trivial

theorem endsWritten_thenNext {α : Type} (bd : State → Run Unit) (r : Run α) {f : α → State → Run Unit}
    (hf : ∀ a s, (f a s).EndsWritten) : (r.thenNext bd f).EndsWritten :=
  endsWritten_andThen r fun a s => endsWritten_andThen (bd s) fun _ => hf a

theorem storeEncoded_endsWritten (a : Addr) (v mark : Byte) (s : State) : (storeEncoded a v mark s).EndsWritten := by
  refine endsWritten_andThen _ fun e s' => ?_
  unfold regWrite
  split
  · exact ⟨a, e ||| mark, by simp⟩
  · trivial

section

variable {bd : State → Run Unit} {s s2 : State} (hgate : gate bd s = .go true s2)

include hgate

theorem onHourButton_endsWritten : (onHourButton bd s).EndsWritten := by
  simp only [onHourButton, hgate, Run.go_andThen, if_true]
  exact endsWritten_andThen _ fun _ _ => endsWritten_thenNext _ _ fun _ _ => storeEncoded_endsWritten _ _ _ _

theorem onMinuteButton_endsWritten : (onMinuteButton bd s).EndsWritten := by
  simp only [onMinuteButton, hgate, Run.go_andThen, if_true]
  refine endsWritten_andThen _ fun _ _ => endsWritten_thenNext _ _ fun _ _ => endsWritten_thenNext _ _ fun _ _ =>
    (storeEncoded_endsWritten _ _ _ _).andThen fun _ s6 h6 => ?_
  split
  · exact endsWritten_andThen _ fun _ _ => storeEncoded_endsWritten _ _ _ _
  · exact h6

theorem onExternalSync_endsWritten : (onExternalSync bd s).EndsWritten := by
  simp only [onExternalSync, hgate, Run.go_andThen, if_true]
  exact endsWritten_andThen _ fun _ _ => endsWritten_thenNext _ _ fun _ _ => endsWritten_thenNext _ _ fun _ _ =>
    endsWritten_thenNext _ _ fun _ _ => endsWritten_thenNext _ _ fun _ _ => endsWritten_thenNext _ _ fun _ _ =>
      storeEncoded_endsWritten _ _ _ _

/-- Accepted, a trigger entry point has written a register when it is done (R110, R112, R114). -/
theorem runTrigger_endsWritten (k : Trigger) : (runTrigger bd k s).EndsWritten := by
  cases k with
  | hourButton => exact onHourButton_endsWritten hgate
  | minuteButton => exact onMinuteButton_endsWritten hgate
  | externalSync => exact onExternalSync_endsWritten hgate

end

theorem Run.Ends.and {α : Type} {P Q B C : State → Prop} {r : Run α} (h : r.Ends P B) (h' : r.Ends Q C) :
    r.Ends (fun s => P s ∧ Q s) fun s => B s ∧ C s := by
  cases r with
  | go a s => exact ⟨h, h'⟩
  | abandoned s => exact ⟨h, h'⟩
  | fault x => trivial

/-- Nothing more is to come, and a gate has asked for the time, `c`, and stored it. -/
structure State.PastGate (c : Time) (s : State) : Prop where
  still : s.Still
  last : s.lastAccepted = c
  asked : .millis c ∈ s.calls

theorem kept_pastGate (c : Time) : Kept (· ≠ .gate) (fun _ => True) (State.PastGate c) fun _ => True :=
  Kept.ofUpdates (log := fun _ _ _ h => { h with asked := List.mem_append_left _ h.asked }) (draw := fun _ h => { h with })
    (drive := fun _ _ h => { h with }) (askTime := fun hw => absurd rfl hw) (setLast := fun hw => absurd rfl hw)
    (arrive := fun _ h => (State.arrive_still h.still).symm ▸ h) (store := fun _ _ _ _ h => { h with })

/-- Left alone, what a trigger entry point does after its gate leaves the stored time (R82). -/
theorem runTrigger_pastGate {n : Nat} {s : State} {ok : Bool} (hs : s.Still) (hgate : gate (boundary n) s = .go ok s.gated)
    (k : Trigger) : (runTrigger (boundary n) k s).Post (fun _ => True) (State.PastGate s.env.clock) fun _ => True := by
  refine (kept_pastGate s.env.clock).runTrigger (fun u hu => ?_) (by decide) k s ?_
  · rw [boundary_still n hu.still]
    exact ⟨trivial, hu⟩
  · rw [hgate]
    exact ⟨trivial, hs, rfl, by simp⟩

theorem clockAnswers_of_exec_trigger {i : Instr} {s t : State} (hi : i ∈ triggerInstrs) (ht : exec i s = .next t) :
    s.env.clockAnswers = true := by
  by_contra hclock
  obtain ⟨k, hk⟩ := exec_trigger hi
  rw [hk, runTrigger_of_gate_fault (gate_of_silent (s := s.enter) _ (by simpa using hclock))] at ht
  cases ht

theorem exec_trigger_of_accepted {i : Instr} {s t : State} (hi : i ∈ triggerInstrs) (hs : s.env.script = [])
    (hacc : 200 < (s.env.clock - s.lastAccepted).toNat) (ht : exec i s = .next t) :
    t.PastGate s.env.clock ∧ t.HasWritten := by
  have hclock := clockAnswers_of_exec_trigger hi ht
  obtain ⟨k, hk⟩ := exec_trigger hi
  rw [hk] at ht
  have hgate := gate_still_accepts s.env.script.length (s := s.enter) hs hclock hacc
  have hnone : s.enter.NoAbandon := by simp [State.NoAbandon, hs]
  constructor
  · have hpost := (runTrigger_pastGate (s := s.enter) hs hgate k).finish
    rwa [ht] at hpost
  · have hends := (runTrigger_endsWritten hgate k).and (runTrigger_completes (fun _ => boundary_completes _) hnone k)
    rcases hends.of_finish ht with ⟨-, hfalse⟩ | ⟨hwritten, -⟩
    · exact hfalse.elim
    · exact hwritten

/-- Left alone, a trigger entry point that completes has moved the stored time to the counter's reading, and made no call
after `Millis()` exactly when at most 200 ms have passed (R82, R115). -/
theorem exec_trigger_next {i : Instr} {s t : State} (hi : i ∈ triggerInstrs) (hs : s.env.script = [])
    (ht : exec i s = .next t) :
    t.PastGate s.env.clock ∧ (t.calls = [.millis s.env.clock] ↔ (s.env.clock - s.lastAccepted).toNat ≤ 200) := by
  by_cases hsup : (s.env.clock - s.lastAccepted).toNat ≤ 200
  · rw [exec_trigger_of_suppressed hi hs (clockAnswers_of_exec_trigger hi ht) hsup] at ht
    cases ht
    exact ⟨⟨hs, rfl, by simp⟩, iff_of_true rfl hsup⟩
  · obtain ⟨hpast, a, v, hlast⟩ := exec_trigger_of_accepted hi hs (Nat.lt_of_not_le hsup) ht
    refine ⟨hpast, iff_of_false (fun hcalls => ?_) hsup⟩
    simp [hcalls] at hlast

/-! ### The times a step presents -/

theorem State.presented_of_next {s : State} {r : Request} {i : Instr} (h : s.arrive.stopped = false)
    (hn : s.arrive.next? = some r) (hi : decodeCommand r.toCommand = .ok i) : s.presented = presentedBy i s.arrive.take := by
  simp [State.presented, h, hn, hi]

end Sys2Proof.Machine
end

section
/-! PROOFS. The debounce family: ADMIT, bursts, and the one gate of the three trigger entry points (41_debounce.md). -/

namespace Sys2Proof.Machine

open Sys2Proof.Claims

/-! ### ADMIT -/

/-- Settles O14: op code 2 has the decoder's third arm, and the difference that wraps is the exact one where it can be. -/
theorem admitComparesAndMovesTheWindow : Obligations.AdmitComparesAndMovesTheWindow := by
  refine ⟨fun x h => by simp [decodeCommand, h], fun s t => ⟨_, exec_admitAt t s, by rw [toNat_time_sub], fun hle => ?_⟩⟩
  rw [(exec_admitAt_flag (exec_admitAt t s)).1, BitVec.toNat_sub_of_le (BitVec.le_def.mpr hle)]

/-- Settles O16: the stored time is 0, so the difference is the time itself. -/
theorem deadWindowAfterReset : Obligations.DeadWindowAfterReset := by
  intro t
  have hexec := exec_admitAt t State.reset
  have hdiff : (t - State.reset.lastAccepted).toNat = t.toNat := congrArg BitVec.toNat (BitVec.sub_zero t)
  obtain ⟨haccepted, hsuppressed⟩ := exec_admitAt_flag hexec
  exact ⟨_, hexec, by rw [haccepted, hdiff, Nat.lt_iff_add_one_le], by rw [hsuppressed, hdiff]⟩

/-- Settles O15: every event becomes the stored time, accepted or not, so each is compared with the one before it. -/
theorem burstsAreSuppressedWhole : Obligations.BurstsAreSuppressedWhole := by
  intro s ts
  induction ts generalizing s with
  | nil => exact ⟨fun _ => rfl, fun _ => rfl⟩
  | cons t ts ih =>
    obtain ⟨u, rfl, hflags⟩ := admitFlags_cons s t
    obtain ⟨hcrowded, hspaced⟩ := ih u
    constructor
    · rintro ⟨hle, hrest⟩
      rw [hflags, hcrowded hrest, if_neg (Nat.not_lt.mpr hle), List.map_cons]
    · rintro ⟨hlt, hrest⟩
      rw [hflags, hspaced hrest, if_pos hlt, List.map_cons]

/-! ### Trigger entry points -/

/-- Settles O24: the state a suppressing gate leaves is the one the entry point ends in. -/
theorem suppressedTriggersOnlyMoveTheWindow : Obligations.SuppressedTriggersOnlyMoveTheWindow :=
  fun _ _ hi hs hclock hsup => exec_trigger_of_suppressed hi hs hclock hsup

/-- Settles O17: both store the reading, and both are decided by its distance to the time stored before. -/
theorem triggersShareOneGate : Obligations.TriggersShareOneGate := by
  intro s t u i hi hs ht hu
  obtain ⟨hpast, hcalls⟩ := exec_trigger_next hi hs ht
  exact ⟨hpast.last.trans (exec_admitAt_lastAccepted hu).symm, (exec_admitAt_flag hu).2.trans hcalls.symm⟩

/-! ### P-MONO -/

/-- Settles O53: the time is one the step presents, so under P-MONO it is not before the stored one and no difference
wraps. -/
theorem monotonicTimesUseTheExactDifference : Obligations.MonotonicTimesUseTheExactDifference := by
  intro s u r i ⟨_, hmono⟩ hs hstop hn hi hu
  have harrive := State.arrive_still hs
  have hasc : ascending s.lastAccepted (presentedBy i s.take) = true := by
    have hpresented := (hmono 1).1
    rwa [State.presented_of_next (by rwa [harrive]) (by rwa [harrive]) hi, harrive] at hpresented
  have hle (t : Time) (ht : t ∈ presentedBy i s.take) : s.lastAccepted.toNat ≤ t.toNat :=
    le_of_ascending hasc (List.mem_cons_of_mem _ ht)
  rw [step_of_next (by rwa [harrive]) (by rwa [harrive]) hi, harrive] at hu
  constructor
  · rintro t rfl
    have hlast := hle t List.mem_cons_self
    rw [(exec_admitAt_flag hu).1, State.take_lastAccepted, BitVec.toNat_sub_of_le (BitVec.le_def.mpr hlast)]
    exact ⟨hlast, Iff.rfl⟩
  · intro htrigger
    obtain ⟨hpast, hcalls⟩ := exec_trigger_next (s := s.take) htrigger hs hu
    have hasked : s.env.clock ∈ presentedBy i s.take := by
      rw [presentedBy, hu]
      exact List.mem_append_right _ (List.mem_filterMap.mpr ⟨_, hpast.asked, rfl⟩)
    have hlast := hle _ hasked
    rw [State.take_clock, State.take_lastAccepted, BitVec.toNat_sub_of_le (BitVec.le_def.mpr hlast)] at hcalls
    exact ⟨hlast, hcalls⟩

end Sys2Proof.Machine
end

section
/-! SUPPORT. The incrementer family (42_incrementer.md), its rules: INC_HOUR and INC_MINUTE as commands and as a count modulo
24 and 1440, and an accepted button press that the environment leaves alone. -/

namespace Sys2Proof.Machine

open Sys2Proof.Claims

/-! ### INC_HOUR -/

theorem incHour_eq (h : Byte) : incHour h = BitVec.ofNat 8 (hourAfter h.toNat) := by
  rw [← toNat_incHour, BitVec.ofNat_toNat, BitVec.setWidth_eq]

/-- INC_HOUR drives `r0` with the hour after its operand (R90). -/
theorem exec_incHour (h : Byte) (s : State) :
    exec (.incHour h) s = .next { s with out := onlyR0 (hourAfter h.toNat), calls := [] } := by
  rw [exec, execIncHour, incHour_eq]
  rfl

/-- From 0 to 23 the hour after is a count modulo 24 (R93 a). -/
theorem hourAfter_eq_mod {h : Nat} (hle : h ≤ 23) : hourAfter h = (h + 1) % 24 := by
  unfold hourAfter
  split <;> omega

/-- A function that counts modulo `N` counts its iterations modulo `N` (R93 d). -/
theorem iterate_counts {α : Type} {f : α → α} {P : α → Prop} {count : α → Nat} {N : Nat}
    (hf : ∀ x, P x → P (f x) ∧ count (f x) = (count x + 1) % N) {x : α} (hx : P x) (hlt : count x < N) (n : Nat) :
    P (f^[n] x) ∧ count (f^[n] x) = (count x + n) % N := by
  induction n with
  | zero => exact ⟨hx, (Nat.mod_eq_of_lt hlt).symm⟩
  | succ n ih =>
    obtain ⟨hP, hcount⟩ := ih
    obtain ⟨hP', hcount'⟩ := hf _ hP
    rw [Function.iterate_succ_apply']
    exact ⟨hP', by rw [hcount', hcount, Nat.mod_add_mod, Nat.add_assoc]⟩

/-- INC_HOUR counts the hours of a day (R93 a, c). -/
theorem incHour_counts (h : Byte) (hle : h.toNat ≤ 23) : (incHour h).toNat ≤ 23 ∧ (incHour h).toNat = (h.toNat + 1) % 24 :=
  ⟨incHour_le h, (toNat_incHour h).trans (hourAfter_eq_mod hle)⟩

/-! ### INC_MINUTE -/

theorem carried_iff (m : Byte) : carried m = true ↔ 59 ≤ m.toNat := by
  unfold carried Config.minMax
  rw [decide_eq_true_eq]
  omega

theorem carried_eq_false_iff (m : Byte) : carried m = false ↔ m.toNat < 59 := by
  rw [← Bool.not_eq_true, carried_iff, Nat.not_le]

theorem nextMinute_of_carried {m : Byte} (h : carried m = true) : nextMinute m = 0#8 := if_pos h

theorem nextHour_of_carried {m : Byte} (h : carried m = true) (hour : Byte) : nextHour m hour = incHour hour := if_pos h

theorem nextMinute_of_not_carried {m : Byte} (h : carried m = false) : nextMinute m = BitVec.ofNat 8 (m.toNat + 1) := by
  simp [nextMinute, h]

theorem nextHour_of_not_carried {m : Byte} (h : carried m = false) (hour : Byte) : nextHour m hour = hour := by
  simp [nextHour, h]

theorem toNat_nextMinute_of_not_carried {m : Byte} (h : carried m = false) : (nextMinute m).toNat = m.toNat + 1 := by
  rw [nextMinute_of_not_carried h, BitVec.toNat_ofNat]
  rw [carried_eq_false_iff] at h
  omega

/-- INC_MINUTE drives `r0`, `r1` and the carry, and changes nothing else (R91). -/
theorem exec_incMinute (m h : Byte) (s : State) :
    exec (.incMinute m h) s = .next { s with
      calls := []
      out := { noResult with
        r0 := some (nextMinute m)
        r1 := some (nextHour m h)
        flag := some (flagBit (carried m)) } } := rfl

/-- From 0 to 59 the carry is at 59 alone, the minute counts modulo 60, and the hour moves with the carry (R93 b). -/
theorem incMinute_laws {m : Byte} (hm : m.toNat ≤ 59) (h : Byte) :
    (flagBit (carried m) = 1#1 ↔ m.toNat = 59) ∧ (nextMinute m).toNat = (m.toNat + 1) % 60 ∧
    (m.toNat = 59 → nextHour m h = incHour h) ∧ (m.toNat ≠ 59 → nextHour m h = h) := by
  cases hc : carried m with
  | true =>
    have h59 : m.toNat = 59 := Nat.le_antisymm hm ((carried_iff m).mp hc)
    refine ⟨iff_of_true rfl h59, ?_, fun _ => nextHour_of_carried hc h, fun hne => absurd h59 hne⟩
    rw [nextMinute_of_carried hc, h59]
    rfl
  | false =>
    have hlt := (carried_eq_false_iff m).mp hc
    refine ⟨iff_of_false (by decide) hlt.ne, ?_, fun h59 => absurd h59 hlt.ne, fun _ => nextHour_of_not_carried hc h⟩
    rw [toNat_nextMinute_of_not_carried hc]
    omega

/-- INC_MINUTE on a pair of minute and hour. -/
def incMinutePair (p : Byte × Byte) : Byte × Byte := (nextMinute p.1, nextHour p.1 p.2)

/-- A minute from 0 to 59 and an hour from 0 to 23. -/
def OnClock (p : Byte × Byte) : Prop := p.1.toNat ≤ 59 ∧ p.2.toNat ≤ 23

/-- The minute of the day that a minute and an hour stand for. -/
def dayMinute (p : Byte × Byte) : Nat := 60 * p.2.toNat + p.1.toNat

/-- Range closure of INC_MINUTE (R93 c). -/
theorem incMinutePair_onClock {p : Byte × Byte} (hp : OnClock p) : OnClock (incMinutePair p) := by
  refine ⟨nextMinute_le p.1, ?_⟩
  cases hc : carried p.1 with
  | true => exact nextHour_le p.2 hc
  | false => exact (congrArg BitVec.toNat (nextHour_of_not_carried hc p.2)).trans_le hp.2

/-- INC_MINUTE counts the minutes of a day (R93 a, b). -/
theorem dayMinute_incMinutePair {p : Byte × Byte} (hp : OnClock p) :
    dayMinute (incMinutePair p) = (dayMinute p + 1) % 1440 := by
  obtain ⟨hm, hh⟩ := hp
  simp only [dayMinute, incMinutePair]
  cases hc : carried p.1 with
  | true =>
    rw [nextMinute_of_carried hc, nextHour_of_carried hc, toNat_incHour, hourAfter_eq_mod hh, BitVec.toNat_zero]
    rw [carried_iff] at hc
    omega
  | false =>
    rw [toNat_nextMinute_of_not_carried hc, nextHour_of_not_carried hc]
    rw [carried_eq_false_iff] at hc
    omega

theorem incMinutePair_counts (p : Byte × Byte) (hp : OnClock p) :
    OnClock (incMinutePair p) ∧ dayMinute (incMinutePair p) = (dayMinute p + 1) % 1440 :=
  ⟨incMinutePair_onClock hp, dayMinute_incMinutePair hp⟩

theorem OnClock.dayMinute_lt {p : Byte × Byte} (hp : OnClock p) : dayMinute p < 1440 := by
  obtain ⟨hm, hh⟩ := hp
  unfold dayMinute
  omega

/-! ### An accepted press, left alone -/

/-- The state after a byte has been written (R31). -/
def State.written (s : State) (a : Addr) (v : Byte) : State := (s.store a v).log (.regWrite a v)

/-- The state after micro-step 4 of an accepted minute press that nothing interrupts: minute and hour have been read, and
are decoded in that order (R112). -/
def State.minuteAndHourRead (s : State) : State :=
  { (s.gated.log (.regRead s.params.aMin (s.reg s.params.aMin))).hourRead with
    draws := drawsAfter (s.reg s.params.aHour) (drawsAfter (s.reg s.params.aMin) s.draws) }

section

variable (n : Nat) {s : State} (h : s.env.script = []) (hbus : s.env.busAnswers = true)

include h hbus

/-- R112 with a carry: minute 0, then the next hour. -/
theorem storeMinute_of_carried {m : Byte} (hc : carried m = true) (hour : Byte) :
    storeMinute (boundary n) m hour s =
      .go () ((s.written s.params.aMin 0x00#8).written s.params.aHour (bcdByte (incHour hour))) := by
  have hhour : (incHour hour).toNat ≤ 99 := (incHour_le hour).trans (by decide)
  have hdigits : bcdByte 0#8 = 0x00#8 := rfl
  simp [storeMinute, nextMinute_of_carried hc, nextHour_of_carried hc, storeEncoded_of_le, hhour, hdigits, hc,
    boundary_still, h, hbus, State.written]

omit h in
/-- R112 without a carry: the minute alone. -/
theorem storeMinute_of_not_carried (bd : State → Run Unit) {m : Byte} (hc : carried m = false) (hour : Byte) :
    storeMinute bd m hour s = .go () (s.written s.params.aMin (bcdByte (nextMinute m))) := by
  simp [storeMinute, storeEncoded_of_le ((nextMinute_le m).trans (by decide)) _ _ hbus, hc, State.written]

section

variable (hclock : s.env.clockAnswers = true) (hacc : 200 < (s.env.clock - s.lastAccepted).toNat)

include hclock hacc

/-- An accepted minute press reads both registers, and stores after the values they stand for (R112). -/
theorem onMinuteButton_still : onMinuteButton (boundary n) s =
    storeMinute (boundary n) (decodedValue (s.reg s.params.aMin) s.draws)
      (decodedValue (s.reg s.params.aHour) (drawsAfter (s.reg s.params.aMin) s.draws)) s.minuteAndHourRead := by
  simp [onMinuteButton, gate_still_accepts n h hclock hacc, Run.thenNext_eq, boundary_still, regRead_of_answers, h, hbus,
    decodedState_eq, State.minuteAndHourRead, State.hourRead]

theorem exec_onMinuteButton_of_not_carried (hc : carried (decodedValue (s.reg s.params.aMin) s.draws) = false) :
    exec .onMinuteButton s = .next (s.enter.minuteAndHourRead.written s.params.aMin
      (bcdByte (nextMinute (decodedValue (s.reg s.params.aMin) s.draws)))) := by
  have hpress := onMinuteButton_still s.env.script.length (s := s.enter) h hbus hclock hacc
  exact congrArg Run.finish (hpress.trans (storeMinute_of_not_carried (s := s.enter.minuteAndHourRead) hbus _ hc _))

theorem exec_onMinuteButton_of_carried (hc : carried (decodedValue (s.reg s.params.aMin) s.draws) = true) :
    exec .onMinuteButton s = .next ((s.enter.minuteAndHourRead.written s.params.aMin 0x00#8).written s.params.aHour
      (bcdByte (incHour (decodedValue (s.reg s.params.aHour) (drawsAfter (s.reg s.params.aMin) s.draws))))) := by
  have hpress := onMinuteButton_still s.env.script.length (s := s.enter) h hbus hclock hacc
  exact congrArg Run.finish (hpress.trans (storeMinute_of_carried _ (s := s.enter.minuteAndHourRead) h hbus hc _))

end

end

/-! ### Registers that hold a minute of the day -/

/-- An integer up to 99 fits a port, so its digits are those ENCODE writes (R51, R72). -/
theorem exists_bcdByte {v : Nat} (h : v ≤ 99) : ∃ w : Byte, w.toNat = v ∧ packedByte v = bcdByte w := by
  have hv : (BitVec.ofNat 8 v).toNat = v := Nat.mod_eq_of_lt (h.trans_lt (by decide))
  exact ⟨BitVec.ofNat 8 v, hv, congrArg packedByte hv.symm⟩

theorem toNat_bcdValue_packedByte {v : Nat} (h : v ≤ 99) : (bcdValue (packedByte v)).toNat = v := by
  obtain ⟨w, rfl, hw⟩ := exists_bcdByte h
  rw [hw, bcdValue_bcdByte h]

theorem holds_packedByte {v hi : Nat} (h : v ≤ hi) (hhi : hi ≤ 99) : holds (packedByte v) hi = true := by
  obtain ⟨w, rfl, hw⟩ := exists_bcdByte (h.trans hhi)
  rw [hw, holds_bcdByte h hhi]

/-- A byte that holds a value is the one written from it (R51, R74). -/
theorem eq_packedByte_of_holds {b : Byte} {hi : Nat} (h : holds b hi = true) :
    (bcdValue b).toNat ≤ hi ∧ b = packedByte (bcdValue b).toNat := by
  simp only [holds, Bool.and_eq_true, decide_eq_true_eq] at h
  obtain ⟨hbcd, hle⟩ := h
  refine ⟨hle, ?_⟩
  rw [toNat_bcdValue hbcd]
  exact (packedByte_packedNat ((isBcd_iff_packed b).mp hbcd)).symm

/-- Hour and minute registers hold the digits of minute `d` of the day. -/
def State.HoldsMinute (s : State) (d : Nat) : Prop :=
  s.reg s.params.aHour = packedByte (d / 60) ∧ s.reg s.params.aMin = packedByte (d % 60)

theorem State.RegsLegal.holdsMinute {s : State} (h : s.RegsLegal) : s.minuteOfDay < 1440 ∧ s.HoldsMinute s.minuteOfDay := by
  obtain ⟨hhour, hmin, -⟩ := h
  obtain ⟨hhle, hheq⟩ := eq_packedByte_of_holds hhour
  obtain ⟨hmle, hmeq⟩ := eq_packedByte_of_holds hmin
  simp only [Config.hourMax, Config.minMax] at hhle hmle
  have hdiv : s.minuteOfDay / 60 = (bcdValue (s.reg s.params.aHour)).toNat := by unfold State.minuteOfDay; omega
  have hmod : s.minuteOfDay % 60 = (bcdValue (s.reg s.params.aMin)).toNat := by unfold State.minuteOfDay; omega
  refine ⟨by unfold State.minuteOfDay; omega, ?_, ?_⟩
  · rwa [hdiv]
  · rwa [hmod]

theorem State.HoldsMinute.minuteOfDay {s : State} {d : Nat} (h : s.HoldsMinute d) (hd : d < 1440) : s.minuteOfDay = d := by
  obtain ⟨hhour, hmin⟩ := h
  rw [State.minuteOfDay, hhour, hmin, toNat_bcdValue_packedByte (by omega), toNat_bcdValue_packedByte (by omega)]
  omega

theorem State.HoldsMinute.regsLegal {s : State} {d : Nat} (h : s.HoldsMinute d) (hd : d < 1440)
    (hsec : holds (s.reg s.params.aSec &&& Config.markerStrip) Config.secMax = true) : s.RegsLegal := by
  obtain ⟨hhour, hmin⟩ := h
  refine ⟨?_, ?_, hsec⟩
  · rw [hhour]
    exact holds_packedByte (Nat.le_of_lt_succ (Nat.div_lt_of_lt_mul hd)) (by decide)
  · rw [hmin]
    exact holds_packedByte (Nat.le_of_lt_succ (Nat.mod_lt d (by decide))) (by decide)

section

variable {s : State} {d : Nat} (hwf : s.StoreWf) (hne : s.params.aHour ≠ s.params.aMin) (hd : d < 1440)

include hwf hne hd

/-- The store of a press without a carry moves the registers one minute on. -/
theorem State.HoldsMinute.store_minute (h : s.HoldsMinute d) (hlt : d % 60 < 59) :
    (s.store s.params.aMin (packedByte (d % 60 + 1))).HoldsMinute ((d + 1) % 1440) := by
  have hdiv : (d + 1) % 1440 / 60 = d / 60 := by omega
  have hmod : (d + 1) % 1440 % 60 = d % 60 + 1 := by omega
  constructor
  · rw [State.store_params, s.store_reg_of_ne _ hne.symm, h.1, hdiv]
  · rw [State.store_params, s.store_reg_self hwf, hmod]

/-- The two stores of a press with a carry move registers that hold minute `d` one minute on. -/
theorem State.holdsMinute_store_carry (h59 : d % 60 = 59) :
    ((s.store s.params.aMin 0x00#8).store s.params.aHour (packedByte (hourAfter (d / 60)))).HoldsMinute
      ((d + 1) % 1440) := by
  have hdiv : (d + 1) % 1440 / 60 = hourAfter (d / 60) := by rw [hourAfter_eq_mod (by omega)]; omega
  have hmod : (d + 1) % 1440 % 60 = 0 := by omega
  constructor
  · rw [State.store_params, State.store_params, State.store_reg_self _ (s.store_wf hwf _ _), hdiv]
  · rw [State.store_params, State.store_params, State.store_reg_of_ne _ _ hne, s.store_reg_self hwf, hmod]
    rfl

end

/-! ### Presses of the minute button, one after the other -/

/-- `t` is what `n` counted minute presses leave of `s`, with collaborators that answer and no environment event. -/
structure MinutesAfter (s : State) (n : Nat) (t : State) : Prop where
  params : t.params = s.params
  still : t.env.script = []
  clock : t.env.clockAnswers = true
  bus : t.env.busAnswers = true
  wf : t.StoreWf
  minute : t.HoldsMinute ((s.minuteOfDay + n) % 1440)
  others : ∀ x : Addr, x ≠ s.params.aHour → x ≠ s.params.aMin → t.reg x = s.reg x

section

variable {s t : State} {n : Nat} (h : MinutesAfter s n t)

include h

theorem MinutesAfter.setClock (now : Time) : MinutesAfter s n (t.setClock now) := { h with }

/-- A suppressed press is not counted, and moves the stored time (R115). -/
theorem MinutesAfter.suppressed (hsup : (t.env.clock - t.lastAccepted).toNat ≤ 200) :
    ∃ u, exec .onMinuteButton t = .next u ∧ u.lastAccepted = t.env.clock ∧ MinutesAfter s n u :=
  ⟨_, exec_trigger_of_suppressed (by decide) h.still h.clock hsup, rfl, { h with }⟩

end

end Sys2Proof.Machine
end

section
/-! PROOFS. The incrementer family: INC_HOUR and INC_MINUTE, their laws, and accepted presses of the hour and the minute
button (42_incrementer.md, 45_entry_points.md). -/

namespace Sys2Proof.Machine

open Sys2Proof.Claims

/-! ### The two operations -/

/-- Settles O18: op code 3 has the decoder's fourth arm, and the sum of R90 cannot wrap. -/
theorem incHourForEveryOperand : Obligations.IncHourForEveryOperand :=
  ⟨fun x h => by simp [decodeCommand, h], fun s a => exec_incHour a s⟩

/-- Settles O19: op code 4 has the decoder's fifth arm, and all three results follow the carry. -/
theorem incMinuteForEveryOperand : Obligations.IncMinuteForEveryOperand := by
  refine ⟨fun x h => by simp [decodeCommand, h], fun s a b => ?_⟩
  rw [exec_incMinute]
  cases hc : carried a with
  | true =>
    have hsum : a.toNat + 1 > 59 := Nat.lt_succ_of_le ((carried_iff a).mp hc)
    rw [nextMinute_of_carried hc, nextHour_of_carried hc, incHour_eq, if_pos hsum]
    rfl
  | false =>
    have hsum : ¬ a.toNat + 1 > 59 := Nat.not_lt.mpr ((carried_eq_false_iff a).mp hc)
    rw [nextMinute_of_not_carried hc, nextHour_of_not_carried hc, if_neg hsum]
    rfl

/-- Settles O20: the hour counts modulo 24 and minute and hour together modulo 1440, so 24 and 60 increments come back. -/
theorem incrementLaws : Obligations.IncrementLaws := by
  refine ⟨fun s h hh => ?_, fun s m h hm hh => ?_, fun f hf h hh => ?_, fun f hf m h hm hh => ?_⟩
  · obtain ⟨hle, hcount⟩ := incHour_counts h hh
    exact ⟨_, incHour h, rfl, rfl, hcount, hle⟩
  · obtain ⟨hm', hh'⟩ := incMinutePair_onClock (p := (m, h)) ⟨hm, hh⟩
    obtain ⟨hflag, hmin, hcarry, hpass⟩ := incMinute_laws hm h
    exact ⟨_, _, _, _, _, exec_incMinute m h s, rfl, rfl, rfl, rfl, Option.some_inj.trans hflag, hmin, hcarry, hpass,
      hm', hh'⟩
  · have hfun : f = incHour := funext fun x => by
      obtain ⟨t, ht, hr⟩ := hf State.reset x
      cases ht
      exact (Option.some.inj hr).symm
    obtain ⟨-, hcount⟩ := iterate_counts incHour_counts hh (Nat.lt_succ_of_le hh) 24
    apply BitVec.eq_of_toNat_eq
    rw [hfun, hcount]
    omega
  · have hfun : f = incMinutePair := funext fun p => by
      obtain ⟨t, ht, hr0, hr1⟩ := hf State.reset p
      cases ht
      exact Prod.ext (Option.some.inj hr0).symm (Option.some.inj hr1).symm
    have hp : OnClock (m, h) := ⟨hm, hh⟩
    obtain ⟨⟨hm', hh'⟩, hday⟩ := iterate_counts incMinutePair_counts hp hp.dayMinute_lt 60
    simp only [dayMinute] at hday
    rw [hfun]
    refine Prod.ext (BitVec.eq_of_toNat_eq ?_) (BitVec.eq_of_toNat_eq ?_)
    · change _ = m.toNat
      omega
    · rw [BitVec.toNat_ofNat]
      omega

/-! ### Accepted presses -/

/-- Settles O25: the press reads the hour, and writes the hour after the byte it read. -/
theorem hourButtonAdvancesTheHour : Obligations.HourButtonAdvancesTheHour := by
  rintro s _ _ hs hclock hbus hacc rfl rfl
  have hgate := gate_still_accepts s.env.script.length (s := s.enter) hs hclock hacc
  have hbefore := boundary_still s.env.script.length (s := s.enter.gated) hs
  have hafter := boundary_still s.env.script.length (s := s.enter.gated.hourRead) hs
  rw [exec_onHourButton_of_go rfl (onHourButton_of_points hgate hbefore hbus rfl hafter hbus), State.advanceHour,
    decodedState_eq, hourByteAfter_eq_packedByte]
  rfl

/-- Settles O26: both registers are read, and only the minute is stored. -/
theorem minuteButtonAdvancesTheMinute : Obligations.MinuteButtonAdvancesTheMinute := by
  rintro s _ _ _ hs hclock hbus hacc rfl rfl hlt rfl
  have hc : carried (decodedValue (s.reg s.params.aMin) s.draws) = false := by
    rwa [carried_eq_false_iff, toNat_decodedValue]
  rw [exec_onMinuteButton_of_not_carried hs hbus hclock hacc hc, ← toNat_decodedValue, ← toNat_nextMinute_of_not_carried hc]
  rfl

/-- Settles O27: both registers are read, and the minute's store is followed by the hour's. -/
theorem minuteButtonCarriesIntoTheHour : Obligations.MinuteButtonCarriesIntoTheHour := by
  rintro s _ _ _ hs hclock hbus hacc rfl rfl hge rfl
  have hc : carried (decodedValue (s.reg s.params.aMin) s.draws) = true := by rwa [carried_iff, toNat_decodedValue]
  rw [exec_onMinuteButton_of_carried hs hbus hclock hacc hc, ← toNat_decodedValue, ← toNat_incHour]
  rfl

/-! ### Minute presses, one after the other -/

/-- An accepted press is counted, with a carry or without one (R112). -/
theorem MinutesAfter.accepted {s t : State} {n : Nat} (h : MinutesAfter s n t) (hd : s.params.Distinct)
    (hacc : 200 < (t.env.clock - t.lastAccepted).toNat) :
    ∃ u, exec .onMinuteButton t = .next u ∧ u.lastAccepted = t.env.clock ∧ MinutesAfter s (n + 1) u := by
  have hlt : (s.minuteOfDay + n) % 1440 < 1440 := Nat.mod_lt _ (by decide)
  have hnext : (s.minuteOfDay + (n + 1)) % 1440 = ((s.minuteOfDay + n) % 1440 + 1) % 1440 := by omega
  have hm := h.minute
  generalize (s.minuteOfDay + n) % 1440 = d at hlt hnext hm
  have hne : t.params.aHour ≠ t.params.aMin := h.params ▸ hd.1
  have hmin (k : Nat) : valueOf (t.reg t.params.aMin) k = d % 60 := by rw [hm.2, valueOf_packedByte (by omega)]
  have hhour (k : Nat) : valueOf (t.reg t.params.aHour) k = d / 60 := by rw [hm.1, valueOf_packedByte (by omega)]
  by_cases hc : d % 60 < 59
  · have hexec := minuteButtonAdvancesTheMinute t _ _ _ h.still h.clock h.bus hacc rfl rfl (by rwa [hmin]) rfl
    rw [hmin] at hexec
    exact ⟨_, hexec, rfl, { h with
      wf := t.store_wf h.wf _ _
      minute := hnext ▸ hm.store_minute h.wf hne hlt hc
      others := fun x hxh hxm => (t.store_reg_of_ne _ (h.params ▸ hxm.symm)).trans (h.others x hxh hxm) }⟩
  · have hexec := minuteButtonCarriesIntoTheHour t _ _ _ h.still h.clock h.bus hacc rfl rfl (by rw [hmin]; omega) rfl
    rw [hhour] at hexec
    exact ⟨_, hexec, rfl, { h with
      wf := State.store_wf _ (t.store_wf h.wf _ _) _ _
      minute := hnext ▸ State.holdsMinute_store_carry h.wf hne hlt (by omega)
      others := fun x hxh hxm => (State.store_reg_of_ne _ _ (h.params ▸ hxh.symm)).trans
        ((t.store_reg_of_ne _ (h.params ▸ hxm.symm)).trans (h.others x hxh hxm)) }⟩

/-- Presses each more than 200 ms after the one before are all counted (R113, R156). -/
theorem MinutesAfter.pressMinute {s t : State} {n : Nat} {ts : List Time} (h : MinutesAfter s n t) (hd : s.params.Distinct)
    (hts : spaced t.lastAccepted ts) : ∃ u, pressMinute t ts = some u ∧ MinutesAfter s (n + ts.length) u := by
  induction ts generalizing t n with
  | nil => exact ⟨t, rfl, h⟩
  | cons now ts ih =>
    obtain ⟨hacc, hrest⟩ := hts
    obtain ⟨u, hu, hlast, hafter⟩ := (h.setClock now).accepted hd hacc
    obtain ⟨w, hw, hcount⟩ := ih hafter (hlast ▸ hrest)
    refine ⟨w, by rw [Machine.pressMinute, hu]; exact hw, ?_⟩
    rwa [List.length_cons, Nat.add_comm ts.length, ← Nat.add_assoc]

/-- Settles O31: each accepted press moves the registers one minute on, and a suppressed one only the stored time. -/
theorem spacedMinutePressesAreAllCounted : Obligations.SpacedMinutePressesAreAllCounted := by
  intro s ts hs hclock hbus hwf hd hlegal
  obtain ⟨hlt, hminute⟩ := hlegal.holdsMinute
  have hstart : MinutesAfter s 0 s :=
    ⟨rfl, hs, hclock, hbus, hwf, by rwa [Nat.add_zero, Nat.mod_eq_of_lt hlt], fun _ _ _ => rfl⟩
  have hday (hh : s.reg s.params.aHour = 0x20#8) (hm : s.reg s.params.aMin = 0x48#8) : s.minuteOfDay = 1248 := by
    rw [State.minuteOfDay, hh, hm]
    rfl
  constructor
  · intro hts
    obtain ⟨t, ht, hafter⟩ := hstart.pressMinute hd hts
    have hshown := hafter.minute
    rw [Nat.zero_add] at hshown
    have hlt' : (s.minuteOfDay + ts.length) % 1440 < 1440 := Nat.mod_lt _ (by decide)
    have hsec : t.reg t.params.aSec = s.reg s.params.aSec := by
      obtain ⟨-, hhs, hms⟩ := hd
      rw [hafter.params, hafter.others _ hhs.symm hms.symm]
    obtain ⟨-, -, hsecond⟩ := hlegal
    refine ⟨t, ht, hshown.regsLegal hlt' (hsec ▸ hsecond), hshown.minuteOfDay hlt', hafter.others, fun hlen hh hm => ?_⟩
    rw [hlen, hday hh hm, State.HoldsMinute, hafter.params] at hshown
    exact hshown
  · intro first hsup hts hlen hh hm
    obtain ⟨u, hu, hlast, hnone⟩ := (hstart.setClock first).suppressed hsup
    obtain ⟨t, ht, hafter⟩ := hnone.pressMinute (ts := ts) hd (hlast ▸ hts)
    have hshown := hafter.minute
    rw [hlen, hday hh hm, State.HoldsMinute, hafter.params] at hshown
    exact ⟨t, by rw [Machine.pressMinute, hu]; exact ht, hshown⟩

end Sys2Proof.Machine
end

section
/-! PROOFS. The normaliser (43_normalizer.md): NORMALIZE as a command. -/

namespace Sys2Proof.Machine

open Sys2Proof.Claims

/-- The difference of R100's second case cannot wrap in the byte it is kept in. -/
theorem normalizeHour_eq (h : Byte) : normalizeHour h = BitVec.ofNat 8 (displayHour h.toNat) := by
  rw [← toNat_normalizeHour, BitVec.ofNat_toNat, BitVec.setWidth_eq]

/-- NORMALIZE drives `r0` with the display hour of its operand, and nothing else (R100). -/
theorem exec_normalize (h : Byte) (s : State) :
    exec (.normalize h) s = .next { s with out := onlyR0 (displayHour h.toNat), calls := [] } := by
  rw [exec, execNormalize, normalizeHour_eq]
  rfl

/-- The bound R100 derives from its three cases, so that ENCODE always accepts the result. -/
theorem displayHour_toNat_le (h : Byte) : displayHour h.toNat ≤ 12 :=
  toNat_normalizeHour h ▸ normalizeHour_le h

/-- Settles O21: op code 5 has the decoder's sixth arm, and the display hour is R100's three cases in their order. -/
theorem normalizeForEveryOperand : Obligations.NormalizeForEveryOperand :=
  ⟨fun x h => by simp [decodeCommand, h],
    fun s a => ⟨displayHour a.toNat, rfl, displayHour_toNat_le a, exec_normalize a s⟩⟩

end Sys2Proof.Machine
end

section
/-! SUPPORT. The sync adapter family (44_sync_adapter.md), its rules: APPLY_EXTERNAL_TIME left alone, how far its writes
come, and an accepted ON_EXTERNAL_SYNC as the getters followed by it. -/

namespace Sys2Proof.Machine

open Sys2Proof.Claims

/-- The hour byte in the rules' arithmetic (R72, R100). -/
theorem packedByte_displayHour (a : Byte) : packedByte (displayHour a.toNat) = bcdByte (normalizeHour a) := by
  rw [← toNat_normalizeHour]
  rfl

/-- Left alone, what follows in the next micro-step follows at once (R37). -/
theorem Run.go_thenNext_still {α β : Type} (n : Nat) {s : State} (h : s.env.script = []) (a : α)
    (f : α → State → Run β) : (Run.go a s).thenNext (boundary n) f = f a s := by
  rw [Run.thenNext_eq, Run.go_andThen, boundary_still n h, Run.go_andThen]

/-! ### The three writes -/

/-- The state after the seconds have been written with their marker (R105). -/
def State.secondSet (s : State) (c : Byte) : State :=
  s.written s.params.aSec (bcdByte c ||| Config.markerMask)

/-- The state after all three writes (R105). -/
def State.timeSet (s : State) (a b c : Byte) : State := ((s.hourSet a).minuteSet b).secondSet c

/-- Each register holds its byte, since no later write falls on it (R32, R33). -/
theorem State.timeSet_reads {s : State} (a b c : Byte) (hwf : s.StoreWf) (hd : s.params.Distinct) :
    (s.timeSet a b c).reg s.params.aHour = bcdByte (normalizeHour a) ∧
      (s.timeSet a b c).reg s.params.aMin = bcdByte b ∧
      (s.timeSet a b c).reg s.params.aSec = bcdByte c ||| Config.markerMask := by
  obtain ⟨hhm, hhs, hms⟩ := hd
  have hwf1 : (s.hourSet a).StoreWf := s.store_wf hwf _ _
  have hwf2 : ((s.hourSet a).minuteSet b).StoreWf := State.store_wf _ hwf1 _ _
  refine ⟨?_, ?_, State.store_reg_self _ hwf2 _ _⟩
  · calc (s.timeSet a b c).reg s.params.aHour
      _ = ((s.hourSet a).minuteSet b).reg s.params.aHour := State.store_reg_of_ne _ _ hhs.symm
      _ = (s.hourSet a).reg s.params.aHour := State.store_reg_of_ne _ _ hhm.symm
      _ = bcdByte (normalizeHour a) := s.store_reg_self hwf _ _
  · calc (s.timeSet a b c).reg s.params.aMin
      _ = ((s.hourSet a).minuteSet b).reg s.params.aMin := State.store_reg_of_ne _ _ hms.symm
      _ = bcdByte b := State.store_reg_self _ hwf1 _ _

theorem State.timeSet_reg_of_ne (s : State) (a b c : Byte) {x : Addr} (hh : x ≠ s.params.aHour)
    (hm : x ≠ s.params.aMin) (hs : x ≠ s.params.aSec) : (s.timeSet a b c).reg x = s.reg x :=
  calc (s.timeSet a b c).reg x
    _ = ((s.hourSet a).minuteSet b).reg x := State.store_reg_of_ne _ _ hs.symm
    _ = (s.hourSet a).reg x := State.store_reg_of_ne _ _ hm.symm
    _ = s.reg x := s.store_reg_of_ne _ hh.symm

/-! ### APPLY_EXTERNAL_TIME left alone -/

section

variable (n : Nat) {s : State} (a : Byte) {b c : Byte} (h : s.env.script = []) (hbus : s.env.busAnswers = true)

include h hbus

/-- The hour is always encodable, so the minute's write is the first that may have no step (R106). -/
theorem applyTime_still : applyTime (boundary n) a b c s =
    (storeEncoded s.params.aMin b 0#8 (s.hourSet a)).thenNext (boundary n) fun _ s2 =>
      storeEncoded s2.params.aSec c Config.markerMask s2 := by
  rw [applyTime, storeEncoded_of_le (normalizeHour_le_99 a) _ _ hbus, BitVec.or_zero]
  exact Run.go_thenNext_still (s := s.hourSet a) n h () _

theorem applyTime_of_minute_gt (hb : 99 < b.toNat) :
    applyTime (boundary n) a b c s = .fault (.outOfRangeEncode (s.hourSet a)) := by
  rw [applyTime_still n a h hbus, storeEncoded_of_gt hb]
  rfl

/-- Past an encodable minute the seconds' write is what is left. -/
theorem applyTime_of_minute_le (hb : b.toNat ≤ 99) : applyTime (boundary n) a b c s =
    storeEncoded s.params.aSec c Config.markerMask ((s.hourSet a).minuteSet b) := by
  have hbus1 : (s.hourSet a).env.busAnswers = true := hbus
  rw [applyTime_still n a h hbus, storeEncoded_of_le hb _ _ hbus1, BitVec.or_zero]
  exact Run.go_thenNext_still (s := (s.hourSet a).minuteSet b) n h () _

theorem applyTime_of_second_gt (hb : b.toNat ≤ 99) (hc : 99 < c.toNat) :
    applyTime (boundary n) a b c s = .fault (.outOfRangeEncode ((s.hourSet a).minuteSet b)) := by
  rw [applyTime_of_minute_le n a h hbus hb, storeEncoded_of_gt hc]

theorem applyTime_of_le (hb : b.toNat ≤ 99) (hc : c.toNat ≤ 99) :
    applyTime (boundary n) a b c s = .go () (s.timeSet a b c) := by
  have hbus2 : ((s.hourSet a).minuteSet b).env.busAnswers = true := hbus
  rw [applyTime_of_minute_le n a h hbus hb, storeEncoded_of_le hc _ _ hbus2]
  rfl

end

/-! ### An accepted ON_EXTERNAL_SYNC left alone -/

/-- The state after the three getters have been asked, in their order (R114). -/
def State.timeAsked (s : State) : State :=
  ((s.log (.extHours s.env.extHours)).log (.extMinutes s.env.extMinutes)).log (.extSeconds s.env.extSeconds)

section

variable {s : State} (h : s.env.script = []) (hans : s.Answering) (hacc : 200 < (s.env.clock - s.lastAccepted).toNat)

include h hans hacc

/-- Accepted, a sync applies the answers of the getters (R114). -/
theorem onExternalSync_still (n : Nat) : onExternalSync (boundary n) s =
    applyTime (boundary n) s.env.extHours s.env.extMinutes s.env.extSeconds s.gated.timeAsked := by
  obtain ⟨hclock, -, hext⟩ := hans
  simp [onExternalSync, gate_still_accepts n h hclock hacc, boundary_still, Run.go_thenNext_still, h,
    extHours_of_answers, extMinutes_of_answers, extSeconds_of_answers, hext, State.timeAsked]

theorem exec_onExternalSync_still : exec .onExternalSync s =
    (applyTime (boundary s.env.script.length) s.env.extHours s.env.extMinutes s.env.extSeconds
      s.enter.gated.timeAsked).finish :=
  congrArg Run.finish (onExternalSync_still (s := s.enter) h hans hacc s.env.script.length)

end

end Sys2Proof.Machine
end

section
/-! PROOFS. The sync adapter family: APPLY_EXTERNAL_TIME and an accepted ON_EXTERNAL_SYNC, to their end and up to an
integer that has no encoding (44_sync_adapter.md, 45_entry_points.md). -/

namespace Sys2Proof.Machine

open Sys2Proof.Claims

/-! ### As a command -/

/-- Settles O22: all three values are encodable, and each write leaves the others' registers. -/
theorem applyExternalTimeWritesThreeRegisters : Obligations.ApplyExternalTimeWritesThreeRegisters := by
  intro s a b c hs hbus hb hc
  have hrun := applyTime_of_le 0 (s := s.enter) a hs hbus hb hc
  rw [packedByte_displayHour]
  exact ⟨s.enter.timeSet a b c, congrArg Run.finish hrun, rfl, State.timeSet_reads (s := s.enter) a b c,
    fun _ => s.enter.timeSet_reg_of_ne a b c⟩

/-- Settles O23: the fault carries the state that the writes before it have left. -/
theorem applyExternalTimeFaultsMidway : Obligations.ApplyExternalTimeFaultsMidway := by
  intro s a b c hs hbus
  rw [packedByte_displayHour]
  refine ⟨fun hb => ?_, fun hb hc => ?_⟩
  · exact congrArg Run.finish (applyTime_of_minute_gt 0 (s := s.enter) a hs hbus hb)
  · exact congrArg Run.finish (applyTime_of_second_gt 0 (s := s.enter) a hs hbus hb hc)

/-! ### As the end of ON_EXTERNAL_SYNC -/

/-- Settles O28: the gate and the getters leave the registers to the three writes. -/
theorem externalSyncImportsTheTime : Obligations.ExternalSyncImportsTheTime := by
  rintro s _ _ _ hs hans hacc hm hsec rfl rfl rfl
  have ⟨_, hbus, _⟩ := hans
  rw [exec_onExternalSync_still hs hans hacc, packedByte_displayHour,
    applyTime_of_le _ (s := s.enter.gated.timeAsked) _ hs hbus hm hsec]
  rfl

/-- Settles O29: the gate and the getters have taken effect, and of the writes those before the fault. -/
theorem externalSyncFaultsMidway : Obligations.ExternalSyncFaultsMidway := by
  rintro s _ _ hs hans hacc rfl rfl
  have ⟨_, hbus, _⟩ := hans
  rw [exec_onExternalSync_still hs hans hacc, packedByte_displayHour]
  refine ⟨fun hm => ?_, fun hm hsec => ?_⟩
  · rw [applyTime_of_minute_gt _ (s := s.enter.gated.timeAsked) _ hs hbus hm]
    rfl
  · rw [applyTime_of_second_gt _ (s := s.enter.gated.timeAsked) _ hs hbus hm hsec]
    rfl

end Sys2Proof.Machine
end

section
/-! SUPPORT. The entry points family (45_entry_points.md), its rules: what keeps an operation from a fault, and an accepted
ON_EXTERNAL_SYNC from what its points deliver. -/

namespace Sys2Proof.Machine

/-! ### Collaborators that answer and external values in range -/

/-- P-ANSWER and P-EXT, for the calls of this moment and for all that is to come (R154). -/
structure State.Served (s : State) : Prop where
  answering : s.Answering
  noSilence : s.NoSilence
  ext : s.ExtInRange

/-- Only silencing takes an answer away (R134). -/
theorem State.Answering.deliver {s : State} {e : Event} (he : ∀ who, e ≠ .silent who) (h : s.Answering) :
    (s.deliver e).Answering := by
  cases e with
  | silent who => exact absurd rfl (he who)
  | rtcWrite f v =>
    rcases s.deliver_rtcWrite f v with hsame | hstore
    · rw [hsame]; exact h
    · rw [hstore]; exact h
  | _ => exact h

theorem State.NoSilence.setScript_tail {s : State} {slot : List Event} {rest : List (List Event)}
    (hs : s.env.script = slot :: rest) (h : s.NoSilence) :
    (s.setScript rest).NoSilence ∧ ∀ e ∈ slot, ∀ who, e ≠ .silent who := by
  rw [State.NoSilence, hs] at h
  exact ⟨fun sl hsl => h sl (List.mem_cons_of_mem _ hsl), fun e he who hw => h slot List.mem_cons_self who (hw ▸ he)⟩

theorem delivered_served : Delivered (fun e => e.inRange = true ∧ ∀ who, e ≠ .silent who) State.Served where
  script s slot rest hs h := by
    obtain ⟨hext, hrange⟩ := h.ext.setScript_tail hs
    obtain ⟨hquiet, hanswer⟩ := h.noSilence.setScript_tail hs
    exact ⟨⟨h.answering, hquiet, hext⟩, fun e he => ⟨hrange e he, hanswer e he⟩⟩
  deliver s e he h :=
    { answering := h.answering.deliver he.2
      noSilence := by rw [State.NoSilence, State.deliver_script]; exact h.noSilence
      ext := h.ext.deliver he.1 }

/-- There is then no fault to end in: every call has a step, and a minute or second to be stored is encodable (R106,
R134). -/
theorem kept_served : Kept (fun _ => True) (·.toNat ≤ 99) State.Served fun _ => False where
  log _ _ _ h := { h with }
  draw _ h := { h with }
  drive _ _ _ h := { h with }
  askTime _ _ h := { h with }
  setLast _ _ _ h := { h with }
  arrive := delivered_served.arrive
  small _ hv := hv.trans (by decide)
  external _ _ h := have ⟨hm, hs, _⟩ := h.ext; ⟨hm.trans (by decide), hs.trans (by decide)⟩
  hour _ _ _ _ h := { h with }
  minute _ _ _ _ _ h := { h with }
  second _ _ _ _ _ h := { h with }
  noClock _ h hsilent := absurd h.answering (by simp [State.Answering, hsilent])
  noBus _ h hsilent := absurd h.answering (by simp [State.Answering, hsilent])
  noTime _ h hsilent := absurd h.answering (by simp [State.Answering, hsilent])
  outOfRange _ _ _ hle hge := absurd hle (Nat.not_le.mpr hge)

theorem OutcomePost.exists_next {P : State → Prop} {o : Host.Outcome State Fault Refusal}
    (h : OutcomePost P (fun _ => False) o) : ∃ t, o = .next t := by
  cases o with
  | next t => exact ⟨t, rfl⟩
  | fault x => exact h.elim
  | refused r => exact h.elim

/-! ### An accepted ON_EXTERNAL_SYNC, from what its points deliver -/

/-- With operations one at a time, a change of the external time alone in its slot (R23, R164). -/
theorem boundary_extTime (n : Nat) {s : State} {h m sec : Byte} {rest : List (List Event)}
    (ha : s.params.atomicOps = true) (hs : s.env.script = [.extTime h m sec] :: rest) :
    boundary n s = .go () ((s.setScript rest).setExt h m sec) := by
  simp [boundary_delivers n ha hs, Event.abandons, State.deliver]

/-- R114: each getter answers what the time source holds when it is asked, and these three answers are applied. -/
theorem onExternalSync_of_points {bd : State → Run Unit} {s s2 s3 s4 s5 s6 : State} (hgate : gate bd s = .go true s2)
    (h3 : bd s2 = .go () s3) (hext3 : s3.env.extAnswers = true)
    (h4 : bd (s3.log (.extHours s3.env.extHours)) = .go () s4) (hext4 : s4.env.extAnswers = true)
    (h5 : bd (s4.log (.extMinutes s4.env.extMinutes)) = .go () s5) (hext5 : s5.env.extAnswers = true)
    (h6 : bd (s5.log (.extSeconds s5.env.extSeconds)) = .go () s6) :
    onExternalSync bd s = applyTime bd s3.env.extHours s4.env.extMinutes s5.env.extSeconds s6 := by
  simp [onExternalSync, hgate, Run.thenNext_eq, h3, extHours_of_answers hext3, h4, extMinutes_of_answers hext4, h5,
    extSeconds_of_answers hext5, h6]

end Sys2Proof.Machine
end

section
/-! PROOFS. The entry points family: every operation completes under P-ANSWER and P-EXT, and an external time that changes
between the getters (45_entry_points.md, 70_reset_and_hazards.md). -/

namespace Sys2Proof.Machine

open Sys2Proof.Claims

/-- Settles O42: all that an operation and the environment do keeps P-ANSWER and P-EXT, and under them no fault is met. -/
theorem operationsCompleteWhileAnswered : Obligations.OperationsCompleteWhileAnswered := by
  intro i s hans hquiet hext hencode happly
  have h : s.enter.Served := ⟨hans, hquiet, hext⟩
  have hpost := kept_served.exec_post (i := i) (fun _ _ => trivial) (.inr ⟨fun _ _ => trivial, _, delivered_served⟩)
    happly (fun a hi hge => absurd (hencode a hi) (Nat.not_le.mpr hge)) (fun _ => { h with }) h
  exact hpost.exists_next

/-- Settles O49: the change falls after the hour has been asked for and before the minute and the second are. -/
theorem externalTimeCanBeTorn : Obligations.ExternalTimeCanBeTorn := by
  intro s h m sec ⟨hclock, hbus, hext⟩ ha hwf hd hs hm hsec hacc
  let n := s.env.script.length
  have hgate := gate_atomic_emptySlot n (s := s.enter) ha hs hclock hacc
  have hbefore := boundary_emptySlot n (s := s.enter.gated.setScript [[], [.extTime h m sec]]) rfl
  have hchange := boundary_extTime n
    (s := (s.enter.gated.setScript [[.extTime h m sec]]).log (.extHours s.env.extHours)) ha rfl
  have hsync := onExternalSync_of_points hgate hbefore hext hchange hext (boundary_still n rfl) hext (boundary_still n rfl)
  have hrun := congrArg Run.finish (hsync.trans (applyTime_of_le n _ rfl hbus hm hsec))
  rw [packedByte_displayHour]
  exact ⟨_, hrun, State.timeSet_reads _ m sec hwf hd⟩

end Sys2Proof.Machine
end

section
/-! SUPPORT. The exceptions family (60_exceptions.md), its rules: how the list of waiting requests and the script to come change
with each event and each slot, while no reset is to come. -/

namespace Sys2Proof.Machine

/-! ### What one event and one slot do to the requests that wait -/

/-- Short of a reset, an event leaves the waiting requests as they are and puts the one it brings, if any, behind them
(R137). -/
theorem State.deliver_waiting (s : State) {e : Event} (he : e ≠ .reset) :
    (s.deliver e).waiting = s.waiting ++ e.arrival.toList := by
  cases e with
  | reset => exact absurd rfl he
  | request r => rfl
  | rtcWrite f v => rcases s.deliver_rtcWrite f v with h | h <;> simp [h, Event.arrival]
  | _ => exact (List.append_nil _).symm

theorem State.deliverAll_waiting {es : List Event} (s : State) (hes : .reset ∉ es) :
    (s.deliverAll es).waiting = s.waiting ++ es.filterMap Event.arrival := by
  induction es generalizing s with
  | nil => exact (List.append_nil _).symm
  | cons e es ih =>
    obtain ⟨he, hes⟩ := List.ne_and_not_mem_of_not_mem_cons hes
    rw [State.deliverAll_cons, ih _ hes, s.deliver_waiting he.symm, List.append_assoc]
    cases h : e.arrival <;> simp [h]

@[simp] theorem State.deliverAll_script (s : State) (es : List Event) : (s.deliverAll es).env.script = s.env.script := by
  induction es generalizing s with
  | nil => rfl
  | cons e es ih => simp [ih]

@[simp] theorem State.arrive_script (s : State) : s.arrive.env.script = s.env.script.tail := by
  cases h : s.env.script with
  | nil => simp [State.arrive_still h, h]
  | cons slot rest => simp [State.arrive_cons h]

/-- What the next slot brings, if there is one, comes to wait behind what waits. -/
theorem State.arrive_waiting {s : State} (hn : s.NoReset) :
    s.arrive.waiting = s.waiting ++ arrivals (s.env.script.take 1) := by
  cases h : s.env.script with
  | nil => simp [State.arrive_still h, arrivals]
  | cons slot rest =>
    have hslot : .reset ∉ slot := hn slot (h ▸ List.mem_cons_self)
    simp [State.arrive_cons h, State.deliverAll_waiting _ hslot, arrivals]

/-! ### The waiting requests of a run, from the state it began in -/

theorem delivered_waiting_prefix (w : List Request) : Delivered (· ≠ .reset) fun s => s.NoReset ∧ w <+: s.waiting :=
  Delivered.ofNoReset (fun _ _ h => h) fun s _ he h => s.deliver_waiting he ▸ h.trans (List.prefix_append _ _)

theorem kept_waiting_prefix (w : List Request) :
    Kept (fun _ => True) (fun _ => True) (fun s => s.NoReset ∧ w <+: s.waiting) fun _ => True :=
  Kept.ofUpdates (log := fun _ _ _ h => h) (draw := fun _ h => h) (drive := fun _ _ h => h)
    (askTime := fun _ _ h => h) (setLast := fun _ _ _ h => h) (arrive := (delivered_waiting_prefix w).arrive)
    (store := fun _ _ _ _ h => h)

/-- From `s` to `t` some first slots of the script were used up, and what they brought waits, in order, behind what waited
(R137). -/
def State.Received (s t : State) : Prop :=
  ∃ used : Nat, t.env.script = s.env.script.drop used ∧ t.waiting = s.waiting ++ arrivals (s.env.script.take used)

theorem State.Received.refl (s : State) : s.Received s := ⟨0, by simp [arrivals]⟩

theorem State.Received.noReset {s t : State} (h : s.Received t) (hn : s.NoReset) : t.NoReset := by
  obtain ⟨used, hscript, -⟩ := h
  exact fun slot hslot => hn slot (List.mem_of_mem_drop (hscript ▸ hslot))

theorem arrivals_append (xs ys : List (List Event)) : arrivals (xs ++ ys) = arrivals xs ++ arrivals ys := by
  simp [arrivals]

/-- One more slot is used up. -/
theorem State.Received.arrive {s t : State} (h : s.Received t) (hn : s.NoReset) : s.Received t.arrive := by
  have hnt := h.noReset hn
  obtain ⟨used, hscript, hwaiting⟩ := h
  refine ⟨used + 1, by simp [hscript], ?_⟩
  rw [State.arrive_waiting hnt, hwaiting, hscript, List.take_add, arrivals_append, List.append_assoc]

theorem kept_received {s : State} (hn : s.NoReset) :
    Kept (fun _ => True) (fun _ => True) (fun t => t.params.atomicOps = true ∧ s.Received t) fun _ => True :=
  Kept.ofUpdates (log := fun _ _ _ h => h) (draw := fun _ h => h) (drive := fun _ _ h => h)
    (askTime := fun _ _ h => h) (setLast := fun _ _ _ h => h)
    (arrive := fun t h => ⟨t.arrive_params ▸ h.1, h.2.arrive hn⟩) (store := fun _ _ _ _ h => h)

end Sys2Proof.Machine
end

section
/-! PROOFS. The exceptions family: no operation drops or merges a request that waits or arrives (60_exceptions.md rule R137). -/

namespace Sys2Proof.Machine

/-- In both interleavings, with no reset to come, what waited stays at the front of what waits. -/
theorem exec_waiting_prefix {i : Instr} {s t : State} (hn : s.NoReset) (ht : exec i s = .next t) :
    s.waiting <+: t.waiting :=
  have henter : s.enter.NoReset ∧ s.waiting <+: s.enter.waiting := ⟨hn, List.prefix_rfl⟩
  ((kept_waiting_prefix s.waiting).exec (fun _ => trivial) (delivered_waiting_prefix _) (fun _ _ _ _ => ⟨trivial, trivial⟩)
    (fun _ _ _ => trivial) (fun _ => henter) henter ht).2

/-- Operations one at a time: between two micro-steps a slot is used up whole, so what an operation received is what these
slots brought. -/
theorem exec_received {i : Instr} {s t : State} (hn : s.NoReset) (ha : s.params.atomicOps = true)
    (ht : exec i s = .next t) : s.Received t := by
  have henter : s.enter.params.atomicOps = true ∧ s.Received s.enter := ⟨ha, State.Received.refl s⟩
  have hpost := (kept_received hn).exec_post (i := i) (fun _ _ => trivial) (.inl fun _ h => h.1)
    (fun _ _ _ _ => ⟨trivial, trivial⟩) (fun _ _ _ => trivial) (fun _ => henter) henter
  rw [ht] at hpost
  exact hpost.2

/-- Settles O8: of the updates an operation is made of, only the slots that arrive touch the list of waiting requests, and they
put what they bring behind it. -/
theorem operationsDropNoWaitingRequest : Obligations.OperationsDropNoWaitingRequest :=
  fun _ _ _ hn ht => ⟨exec_waiting_prefix hn ht, fun ha => exec_received hn ha ht⟩

end Sys2Proof.Machine
end

section
/-! PROOFS. The reset and hazards family: a step in which a reset is all that happens (70_reset_and_hazards.md rules R150,
R151). -/

namespace Sys2Proof.Machine

theorem State.arrive_reset {s : State} {rest : List (List Event)} (h : s.env.script = [.reset] :: rest) :
    s.arrive = (s.setScript rest).blockReset := State.arrive_cons h

/-- A block that nothing waits for runs nothing. -/
theorem State.next?_of_waiting_nil {s : State} (h : s.waiting = []) : s.next? = none := by
  rw [State.next?, h, List.getElem?_nil]

/-- Settles O46: the reset block runs and nothing waits for it, so the step ends where the reset left it. -/
theorem resetEventClearsTheBlock : Obligations.ResetEventClearsTheBlock := by
  intro s hs
  have harrive : s.arrive = (s.setScript []).blockReset := State.arrive_reset hs
  have hrunning : s.arrive.stopped = false := by rw [harrive, State.blockReset_stopped]
  have hidle : s.arrive.next? = none := State.next?_of_waiting_nil (by rw [harrive, State.blockReset_waiting])
  calc step s = .next s.arrive := step_of_idle hrunning hidle
    _ = .next (s.setScript []).blockReset := by rw [harrive]

end Sys2Proof.Machine
end
